-- ==== Sys2Proof/Word.lean ====
section
/-! DEFINITION. The words of PCMMIX: the widths of spec/00_scope.md R4 and spec/10_state.md. -/

namespace Sys2Proof

/-- A buffer element, `BYTE_W` = 8 bits, unsigned (R4). -/
abbrev Byte := BitVec 8

/-- A sample, `SAMPLE_W` = 16 bits, two's complement (R4, R70). -/
abbrev Sample := BitVec 16

/-- A length in bytes, `LEN_W` = 32 bits (R4). -/
abbrev Len := BitVec 32

/-- A sample index, `LEN_W - 1` = 31 bits (R19). -/
abbrev SampleIndex := BitVec 31

/-- The accumulator, `ACC_W` = 32 bits, the reference value of R4.
DESIGN CHOICE, log entry 2, safe: no result depends on it (R116). -/
abbrev Acc := BitVec 32

end Sys2Proof
end

