-- ==== Sys2Proof/Syntax.lean ====
section
/-! DEFINITION. The operations of PCMMIX: one constructor for each row of spec/opcode_table.json (spec/30_encoding.md
R82). -/

namespace Sys2Proof

/-- The two lanes of DES (R2, R90). -/
inductive Lane where
  | a
  | b
  deriving DecidableEq, Repr

/-- The three buffer spaces (R40). -/
inductive Space where
  | a
  | b
  | out
  deriving DecidableEq, Repr

/-- The buffer space a lane reads (R90). -/
def Lane.space : Lane → Space
  | .a => .a
  | .b => .b

/-- The operations of the block (R82). An operand `be` is the bit of the word or of the select line that the
row's mask leaves open: the operation runs the same for either value (R78, R81; log entry 21). -/
inductive Instr where
  /-- `MIX.LE`, command word 0x01 (R76, R160). -/
  | mixLe
  /-- `MIX.BE`, command word 0x03 (R77, R161). -/
  | mixBe
  /-- `NOP`, command words 0x00 and 0x02 (R78, R164). -/
  | nop (be : Bool)
  /-- `LENCHK`, the length check (R91). -/
  | lenchk (be : Bool)
  /-- `PADRD`, the padded fetch of byte `j` of a lane (R92). -/
  | padrd (be : Bool) (lane : Lane) (j : Nat)
  /-- `DES.LE`, the little-endian decode of a lane (R96). -/
  | desLe (lane : Lane)
  /-- `DES.BE`, the big-endian decode of a lane (R97). -/
  | desBe (lane : Lane)
  /-- `MIX.SUM`, the sum of the two samples (R110). -/
  | mixSum (be : Bool)
  /-- `MIX.SRA1`, the halving of the sum (R111). -/
  | mixSra1 (be : Bool)
  /-- `SER.TRUNC`, the truncation to 16 bits (R130). -/
  | serTrunc (be : Bool)
  /-- `SER.LE`, the little-endian store of the output sample (R131). -/
  | serLe
  /-- `SER.BE`, the big-endian store of the output sample (R132). -/
  | serBe
  deriving DecidableEq, Repr

end Sys2Proof
end

