-- ==== Sys2Proof/WellFormed.lean ====
section
/-! DEFINITION. Well-formed operations: the bound the spec puts on an operand. -/

namespace Sys2Proof

/-- `PADRD`'s byte index fits the `LEN_W` = 32 bits of a length, since `j < LPAD` (R92, R103). No other operation
has an operand with a bound. -/
def Instr.wellFormed : Instr → Bool
  | .mixLe => true
  | .mixBe => true
  | .nop _ => true
  | .lenchk _ => true
  | .padrd _ _ j => decide (j < 2 ^ 32)
  | .desLe _ => true
  | .desBe _ => true
  | .mixSum _ => true
  | .mixSra1 _ => true
  | .serTrunc _ => true
  | .serLe => true
  | .serBe => true

end Sys2Proof
end

