-- ==== Sys2Proof/Decode.lean ====
section
/-! DEFINITION. Decoding and encoding: the command word CMD8 (spec/30_encoding.md R75 to R80) and the stage select
(R81, R82). -/

namespace Sys2Proof

/-- The stages of the fixed pipeline (R56, R82). A stage operation has no opcode: the sequencer's position selects
it, with the index lines where the operation takes a byte index. -/
inductive Slot where
  | lenchk
  | padrd (lane : Lane) (j : BitVec 32)
  | des (lane : Lane)
  | sum
  | sra1
  | trunc
  | ser
  deriving DecidableEq, Repr

/-- What the decoder reads: a command word (format CMD8) or a pipeline position with the select line `be`
(format STAGE). -/
inductive Code where
  | cmd (w : BitVec 8)
  | stage (slot : Slot) (line : BitVec 1)
  deriving DecidableEq, Repr

/-- Why the decoder gives no operation. -/
inductive Reject where
  /-- A command word with a bit of `RSV` set (R79). -/
  | reservedWord (w : BitVec 8)
  deriving DecidableEq, Repr

/-- What the decoder answers. -/
inductive Decoded where
  | instr (i : Instr)
  | rejected (r : Reject)
  deriving DecidableEq, Repr

/-- Bits 7:2 of a command word, `RSV` (R75). -/
def cmdRsv (w : BitVec 8) : BitVec 6 := w.extractLsb' 2 6

/-- Bit 1 of a command word, `BE` (R75). -/
def cmdBe (w : BitVec 8) : Bool := w.getLsbD 1

/-- Bit 0 of a command word, `GO` (R75). -/
def cmdGo (w : BitVec 8) : Bool := w.getLsbD 0

/-- The command decoder, its tests in the order of R80. -/
def decodeCmd (w : BitVec 8) : Decoded :=
  if cmdRsv w ≠ 0 then .rejected (.reservedWord w)
  else if cmdGo w = false then .instr (.nop (cmdBe w))
  else if cmdBe w = false then .instr .mixLe
  else .instr .mixBe

/-- The stage select: `be = 0` selects DES.LE and SER.LE, `be = 1` selects DES.BE and SER.BE, and the other stages
run for either value (R81). -/
def decodeStage (slot : Slot) (be : Bool) : Instr :=
  match slot with
  | .lenchk => .lenchk be
  | .padrd lane j => .padrd be lane j.toNat
  | .des lane => if be then .desBe lane else .desLe lane
  | .sum => .mixSum be
  | .sra1 => .mixSra1 be
  | .trunc => .serTrunc be
  | .ser => if be then .serBe else .serLe

/-- The decoder of both formats. -/
def decode : Code → Decoded
  | .cmd w => decodeCmd w
  | .stage slot line => .instr (decodeStage slot (line.getLsbD 0))

/-- A command word from its fields `BE` and `GO`, with `RSV` zero (R75). -/
def cmdWord (be go : Bool) : BitVec 8 := 0#6 ++ BitVec.ofBool be ++ BitVec.ofBool go

/-- The encoder, from the encoding tables of R76 to R78 and R82. -/
def encode : Instr → Code
  | .mixLe => .cmd (cmdWord false true)
  | .mixBe => .cmd (cmdWord true true)
  | .nop be => .cmd (cmdWord be false)
  | .lenchk be => .stage .lenchk (BitVec.ofBool be)
  | .padrd be lane j => .stage (.padrd lane (BitVec.ofNat 32 j)) (BitVec.ofBool be)
  | .desLe lane => .stage (.des lane) 0
  | .desBe lane => .stage (.des lane) 1
  | .mixSum be => .stage .sum (BitVec.ofBool be)
  | .mixSra1 be => .stage .sra1 (BitVec.ofBool be)
  | .serTrunc be => .stage .trunc (BitVec.ofBool be)
  | .serLe => .stage .ser 0
  | .serBe => .stage .ser 1

/-- The operation a row's word stands for, with the word's bits numbered as the opcode table numbers them. An 8-bit
word is a command word. A row of format STAGE has no opcode, only the one-bit line `be`, so such a word is read as
a command word where its width is given in whole bytes; where its width is given as less than a byte it is read as
the line at the position of DES, lane A. DESIGN CHOICE, log entry 14, safe: `step` does not use this function. -/
def decodeTableWord (nbits w : Nat) : Option Instr :=
  if nbits < 8 then
    if w < 2 then some (decodeStage (.des .a) (w == 1)) else none
  else if w < 256 then
    match decodeCmd (BitVec.ofNat 8 w) with
    | .instr i => some i
    | .rejected _ => none
  else none

end Sys2Proof
end

