-- ==== Sys2Proof/Config.lean ====
section
/-! DEFINITION. The free values: what the spec leaves unspecified (spec/93_implementation_defined.md U1 to U3,
spec/70_reset_and_hazards.md R227). None has a body, so nothing proved of the model rests on one. The first argument
of each is the instance's tag: instances share no free value (R206, log entry 24). -/

namespace Sys2Proof

/-- What a buffer byte holds that has not been written since reset number `n`: fixed by the instance, the reset, the
space and the index, and otherwise open (R25, R26, U1). Log entry 6, safe. -/
opaque Config.unwrittenByte : (tag : Nat) → (n : Nat) → Space → (index : Nat) → Byte

/-- What a read of `BUF_OUT` returns where the byte is not output (U2, U3). It is the same value until a core step,
an accepted command or a reset advances the stamp (R49). Log entry 7, safe. -/
opaque Config.hiddenOutByte : (tag : Nat) → (stamp : Nat) → (index : Nat) → Byte

/-- What the sample step stores at an index of `BUF_OUT` for a sample that reads an input byte not written since the
last reset (R227). The stamp is that of the step, so no two steps share the value. Log entry 25, safe. -/
opaque Config.unspecifiedOutByte : (tag : Nat) → (stamp : Nat) → (index : Nat) → Byte

/-- `SA` after reset number `n` (R28, U1). Log entry 5, safe. -/
opaque Config.resetSa : (tag : Nat) → (n : Nat) → Sample

/-- `SB` after reset number `n` (R28, U1). Log entry 5, safe. -/
opaque Config.resetSb : (tag : Nat) → (n : Nat) → Sample

/-- `SO` after reset number `n` (R28, U1). Log entry 5, safe. -/
opaque Config.resetSo : (tag : Nat) → (n : Nat) → Sample

/-- `ACC` after reset number `n` (R28, U1). Log entry 5, safe. -/
opaque Config.resetAcc : (tag : Nat) → (n : Nat) → Acc

/-- The four PADRD results after reset number `n`, by lane and half. Log entry 8, safe. -/
opaque Config.resetPad : (tag : Nat) → (n : Nat) → Lane → (second : Bool) → Byte

end Sys2Proof
end

