-- ==== Sys2Proof/Machine/State.lean ====
section
/-! DEFINITION. The state of one PCMMIX (spec/10_state.md R10 to R28), the environment's pending moves, and the reasons
a step can stop. -/

namespace Sys2Proof.Machine

/-- The sequencer's phases, the values of `PHASE` (R18). -/
inductive Phase where
  | idle
  | run
  | done
  | fail
  deriving DecidableEq, Repr

/-- One buffer memory: (index, byte) pairs with strictly rising indices. A byte not listed has not been written since
the last reset (R25, R26). -/
abbrev Memory := List Host.Cell

/-- The host operations (R150 to R153) and the pseudo-operations made of them (R84, R154 to R157, R179). -/
inductive HostOp where
  /-- `WRR reg, value` (R150). -/
  | wrr (reg : Nat) (value : BitVec 32)
  /-- `RDR reg` (R151). -/
  | rdr (reg : Nat)
  /-- `WRB space, index, byte` (R152). -/
  | wrb (space : Space) (index : Nat) (byte : Byte)
  /-- `RDB space, index` (R153). -/
  | rdb (space : Space) (index : Nat)
  /-- `LDA b0, b1, ...` (R154). -/
  | lda (bytes : List Byte)
  /-- `LDB b0, b1, ...` (R155). -/
  | ldb (bytes : List Byte)
  /-- `WAIT` (R156). -/
  | wait
  /-- `RDO` (R157). -/
  | rdo
  /-- The end of a call: `RDR STATUS`, then `RDO` if DONE (R84, R179 steps 6 and 7). -/
  | result
  /-- `mix(A, B, be)` (R84, R179). -/
  | call (bytesA bytesB : List Byte) (be : Bool)
  deriving DecidableEq, Repr

/-- Whose move the next transition is (R7, R52, R220). -/
inductive Turn where
  | host (op : HostOp)
  | core
  | reset
  deriving DecidableEq, Repr

/-- A value a host read has returned (R151, R153). -/
inductive ReadValue where
  | byte (v : Byte)
  | word (v : BitVec 32)
  deriving DecidableEq, Repr

/-- The state. The first fifteen fields are the spec's (R10; `CMD` stores nothing and `STATUS` is a view of `PHASE`);
the fields after them are the model's own (log entries 1, 3, 6, 7, 8, 9, 24). -/
structure State where
  /-- `PHASE` (R18). -/
  phase : Phase
  /-- `LEN_A` (R13). -/
  lenA : Len
  /-- `LEN_B` (R14). -/
  lenB : Len
  /-- `LEN_OUT` (R15). -/
  lenOut : Len
  /-- `BE` (R17). -/
  be : Bool
  /-- `IDX` (R19). -/
  idx : SampleIndex
  /-- `LPAD` (R20). -/
  lpad : Len
  /-- `SA` (R21); what it holds between steps is log entry 20. -/
  sa : Sample
  /-- `SB` (R21). -/
  sb : Sample
  /-- `ACC` (R22). -/
  acc : Acc
  /-- `SO` (R23). -/
  so : Sample
  /-- `BUF_A` (R25). -/
  bufA : Memory
  /-- `BUF_B` (R25). -/
  bufB : Memory
  /-- `BUF_OUT` (R26). -/
  bufOut : Memory
  /-- PADRD's result for the first byte of lane A, the `a0` of R162 (log entry 8). -/
  padA0 : Byte
  /-- PADRD's result for the second byte of lane A, the `a1` of R162 (log entry 8). -/
  padA1 : Byte
  /-- PADRD's result for the first byte of lane B, the `b0` of R162 (log entry 8). -/
  padB0 : Byte
  /-- PADRD's result for the second byte of lane B, the `b1` of R162 (log entry 8). -/
  padB1 : Byte
  /-- The parameter `MAX_LEN` of this instance (R4, D3); no step changes it (log entry 1). -/
  maxLen : Len
  /-- The turns still to come, in the total order of R52 (log entry 3). -/
  pending : List Turn
  /-- What the host's reads have returned, oldest first (log entry 9). -/
  reads : List ReadValue
  /-- How many reset events there have been; the argument of `Config.unwrittenByte` (log entry 6). -/
  resetCount : Nat
  /-- The argument of `Config.hiddenOutByte` and `Config.unspecifiedOutByte` (log entries 7 and 25). -/
  outStamp : Nat
  /-- Which instance's free values these are; no step changes it and no operation of the block reads it for anything
  else (R206, log entry 24). -/
  freeTag : Nat
  deriving DecidableEq, Repr

/-- What stops the machine. -/
inductive Fault where
  /-- PADRD or SER.LE or SER.BE at an index at or above `MAX_LEN`, a byte that does not exist (R40). Raised by
  `padRead` and `serWrite`. Safe: no state that keeps the invariant of R29 reaches it (R50). Log entry 13. -/
  | bufferRange
  deriving DecidableEq, Repr

/-- Moves the model has no meaning for. -/
inductive Refusal where
  /-- An operation without a meaning; no arm of `exec` answers it. Safe. -/
  | notModelled (mnemonic : String)
  /-- A host write of `LEN_A`, `LEN_B`, `BUF_A` or `BUF_B` while BUSY (R225, U4). Raised by `writeReg` and
  `writeByte`. Safe, log entry 12. -/
  | inputFrozen
  /-- A host write of a length above `MAX_LEN` (R13, U5). Raised by `writeReg`. Safe, log entry 12. -/
  | lengthAboveCapacity
  /-- A host access to a register number above 4 (R16, U6). Raised by `writeReg` and `hostReadReg`. Safe, log entry
  12. -/
  | noSuchRegister
  /-- A host access to a buffer index at or above `MAX_LEN` (R40, U7). Raised by `writeByte` and `hostReadByte`.
  Safe, log entry 12. -/
  | noSuchByte
  deriving DecidableEq, Repr

/-- The state right after reset (R28). `SA`, `SB`, `ACC`, `SO` are unspecified in the spec and 0 here: DESIGN CHOICE,
log entry 4, unsafe. The fields of the model's own are as log entries 1, 3, 6, 7, 8, 9 and 24 say. -/
def State.reset : State where
  phase := .idle
  lenA := 0
  lenB := 0
  lenOut := 0
  be := false
  idx := 0
  lpad := 0
  sa := 0
  sb := 0
  acc := 0
  so := 0
  bufA := []
  bufB := []
  bufOut := []
  padA0 := 0
  padA1 := 0
  padB0 := 0
  padB1 := 0
  maxLen := BitVec.allOnes 32
  pending := []
  reads := []
  resetCount := 0
  outStamp := 0
  freeTag := 0

end Sys2Proof.Machine
end

