-- ==== Sys2Proof/Machine/Flags.lean ====
section
/-! DEFINITION. The flags BUSY, DONE and ERR and the status word, all views of `PHASE` (spec/10_state.md R12, R18, R24). -/

namespace Sys2Proof.Machine

/-- The two-bit code of a phase (R18). -/
def Phase.code : Phase → BitVec 2
  | .idle => 0
  | .run => 1
  | .done => 2
  | .fail => 3

/-- BUSY = 1 exactly when `PHASE = RUN` (R12). -/
def busyFlag (s : State) : Bool := s.phase == .run

/-- DONE = 1 exactly when `PHASE = DONE` (R12). -/
def doneFlag (s : State) : Bool := s.phase == .done

/-- ERR = 1 exactly when `PHASE = FAIL` (R12, R191). -/
def errFlag (s : State) : Bool := s.phase == .fail

/-- `STATUS`: bits 7:3 zero, bit 2 ERR, bit 1 DONE, bit 0 BUSY (R12, R151). -/
def statusByte (s : State) : Byte :=
  0#5 ++ BitVec.ofBool (errFlag s) ++ BitVec.ofBool (doneFlag s) ++ BitVec.ofBool (busyFlag s)

end Sys2Proof.Machine
end

