-- ==== Sys2Proof/Machine/Operands.lean ====
section
/-! DEFINITION. Operand forms: the indices of a sample's bytes, the sample format, the padded byte, and the arithmetic
of the datapath (spec/30_encoding.md R70, spec/40_des.md R92 to R95, spec/41_mix.md R110, R111, spec/42_ser.md R130, R133). -/

namespace Sys2Proof.Machine

/-- The index of the first byte of the sample in hand, `2 IDX` (R94, R137). -/
def firstIndex (s : State) : Nat := 2 * s.idx.toNat

/-- The index of the second byte of the sample in hand, `2 IDX + 1` (R94, R137). -/
def secondIndex (s : State) : Nat := 2 * s.idx.toNat + 1

/-- `Dec(first, second, be)`: `be = 1` puts the first byte high, `be = 0` the second (R95). -/
def dec (first second : Byte) (be : Bool) : Sample :=
  if be then first ++ second else second ++ first

/-- `Enc(s, be)`: the byte at the lower index and the byte at the higher index (R133). -/
def enc (v : Sample) (be : Bool) : Byte × Byte :=
  if be then (v.extractLsb' 8 8, v.extractLsb' 0 8) else (v.extractLsb' 0 8, v.extractLsb' 8 8)

/-- MIX.SUM's sum at accumulator width `w`: both samples sign-extended, then added (R110). -/
def sampleSum (w : Nat) (a b : Sample) : BitVec w := a.signExtend w + b.signExtend w

/-- MIX.SRA1's shift at accumulator width `w` (R111). -/
def halve {w : Nat} (v : BitVec w) : BitVec w := v.sshiftRight 1

/-- SER.TRUNC's truncation at accumulator width `w` (R130, R139). -/
def trunc16 {w : Nat} (v : BitVec w) : Sample := v.setWidth 16

/-- The length register of a lane (R90). -/
def State.laneLen (s : State) : Lane → Len
  | .a => s.lenA
  | .b => s.lenB

/-- `max(LEN_A, LEN_B)` (R91). -/
def padLen (s : State) : Len := if s.lenA < s.lenB then s.lenB else s.lenA

/-- The test of LENCHK: `L[1:0] = 0b00` (R91). -/
def lenOk (l : Len) : Bool := l.extractLsb' 0 2 == 0

/-- The memory of a buffer space (R40). -/
def State.buf (s : State) : Space → Memory
  | .a => s.bufA
  | .b => s.bufB
  | .out => s.bufOut

/-- The byte listed at an index, if one is. -/
def memFind : Memory → Nat → Option Byte
  | [], _ => none
  | (k, v) :: m, i => if k = i then some v else memFind m i

/-- `MemRead(S, i, 1)`: the byte last written at the index since the last reset, and a free value where none has been
(R6, R52, U1; log entry 6). -/
def readByte (s : State) (space : Space) (i : Nat) : Byte :=
  (memFind (s.buf space) i).getD (Config.unwrittenByte s.freeTag s.resetCount space i)

/-- `PadByte(X, j)` (R92), for any index (log entry 22). -/
def padByte (s : State) (lane : Lane) (j : Nat) : Byte :=
  if j < (s.laneLen lane).toNat then readByte s lane.space j else 0

/-- The byte `j` of a lane's padded input has a value the spec gives: it is a pad byte, or a byte of the buffer written
since the last reset (R227). -/
def byteWritten (s : State) (lane : Lane) (j : Nat) : Bool :=
  decide ((s.laneLen lane).toNat ≤ j) || (memFind (s.buf lane.space) j).isSome

/-- All four padded input bytes of sample `i` have values the spec gives (R227). -/
def sampleWritten (s : State) (i : Nat) : Bool :=
  byteWritten s .a (2 * i) && byteWritten s .a (2 * i + 1) && byteWritten s .b (2 * i) && byteWritten s .b (2 * i + 1)

/-- PADRD's result held for a lane and a half of a sample (log entry 8). -/
def State.pad (s : State) : Lane → Bool → Byte
  | .a, false => s.padA0
  | .a, true => s.padA1
  | .b, false => s.padB0
  | .b, true => s.padB1

end Sys2Proof.Machine
end

