-- ==== Sys2Proof/Machine/Ops.lean ====
section
/-! DEFINITION. The named operations over registers and memory, the entry to InvalidLengthError, the reset event, and the
operations that several meanings share. -/

namespace Sys2Proof.Machine

/-- One transition, then another from the state it leaves; a stop ends both. -/
def andThen (o : Host.Outcome State Fault Refusal) (f : State → Host.Outcome State Fault Refusal) :
    Host.Outcome State Fault Refusal :=
  match o with
  | .next t => f t
  | .fault r => .fault r
  | .refused r => .refused r

/-! Updates of one register, each through its own name. -/

/-- `PHASE <- v`. -/
def State.setPhase (s : State) (v : Phase) : State := { s with phase := v }

/-- `LEN_X <- v` for the length register of a lane (R13, R14). -/
def State.setLen (s : State) (lane : Lane) (v : Len) : State :=
  match lane with
  | .a => { s with lenA := v }
  | .b => { s with lenB := v }

/-- `LPAD <- v`. -/
def State.setLpad (s : State) (v : Len) : State := { s with lpad := v }

/-- `IDX <- v`. -/
def State.setIdx (s : State) (v : SampleIndex) : State := { s with idx := v }

/-- `S_X <- v`: `SA` for lane A, `SB` for lane B (R21). -/
def State.setSample (s : State) (lane : Lane) (v : Sample) : State :=
  match lane with
  | .a => { s with sa := v }
  | .b => { s with sb := v }

/-- `ACC <- v`. -/
def State.setAcc (s : State) (v : Acc) : State := { s with acc := v }

/-- `SO <- v`. -/
def State.setSo (s : State) (v : Sample) : State := { s with so := v }

/-- PADRD's result latch of a lane and a half (log entry 8). -/
def State.setPad (s : State) (lane : Lane) (second : Bool) (v : Byte) : State :=
  match lane, second with
  | .a, false => { s with padA0 := v }
  | .a, true => { s with padA1 := v }
  | .b, false => { s with padB0 := v }
  | .b, true => { s with padB1 := v }

/-- The memory of a space replaced. -/
def State.setBuf (s : State) (space : Space) (m : Memory) : State :=
  match space with
  | .a => { s with bufA := m }
  | .b => { s with bufB := m }
  | .out => { s with bufOut := m }

/-- The turns still to come replaced. -/
def State.setPending (s : State) (p : List Turn) : State := { s with pending := p }

/-- A value the host has read. -/
def State.pushRead (s : State) (v : ReadValue) : State := { s with reads := s.reads ++ [v] }

/-- The stamp of what `BUF_OUT` hides advanced (log entry 7). -/
def State.bumpStamp (s : State) : State := { s with outStamp := s.outStamp + 1 }

/-! Memory. -/

/-- The canonical form of a buffer memory: indices strictly rising. -/
def Memory.wf : Memory → Bool
  | [] => true
  | (k, _) :: m => m.all (fun c => decide (k < c.1)) && Memory.wf m

/-- A memory with one byte written. -/
def memInsert : Memory → Nat → Byte → Memory
  | [], i, v => [(i, v)]
  | (k, u) :: m, i, v =>
    if i < k then (i, v) :: (k, u) :: m
    else if i = k then (i, v) :: m
    else (k, u) :: memInsert m i v

/-- `MemWrite(S, i, 1, v)` (R6). -/
def memWrite (s : State) (space : Space) (i : Nat) (v : Byte) : State :=
  s.setBuf space (memInsert (s.buf space) i v)

/-! The one exception, and the reset event. -/

/-- Entry to InvalidLengthError with the command's flag and the failing length: exactly the state R194 lists is
written. Nothing is saved, and there is no return from it (R200): phase FAIL is left by `startMix` or `resetEvent`. -/
def raiseInvalidLength (be : Bool) (l : Len) (s : State) : State :=
  { s with be := be, idx := 0, lenOut := 0, lpad := l, phase := .fail }

/-- The reset event (R220): the registers of R28 at their reset values, the elements that become unspecified at free
values (log entries 5, 6, 8). `MAX_LEN`, the turns to come, the values read and the instance's tag are not the
block's state and stay. -/
def resetEvent (s : State) : State :=
  { State.reset with
    sa := Config.resetSa s.freeTag (s.resetCount + 1)
    sb := Config.resetSb s.freeTag (s.resetCount + 1)
    acc := Config.resetAcc s.freeTag (s.resetCount + 1)
    so := Config.resetSo s.freeTag (s.resetCount + 1)
    padA0 := Config.resetPad s.freeTag (s.resetCount + 1) .a false
    padA1 := Config.resetPad s.freeTag (s.resetCount + 1) .a true
    padB0 := Config.resetPad s.freeTag (s.resetCount + 1) .b false
    padB1 := Config.resetPad s.freeTag (s.resetCount + 1) .b true
    maxLen := s.maxLen
    pending := s.pending
    reads := s.reads
    freeTag := s.freeTag
    resetCount := s.resetCount + 1
    outStamp := s.outStamp + 1 }

/-! What several meanings share. -/

/-- The length check (R91): `LPAD` takes the padded length, and a padded length that is no multiple of 4 raises
InvalidLengthError, with `BE` as the command latched it (log entry 16). -/
def lenCheck (s : State) : State :=
  if lenOk (padLen s) then s.setLpad (padLen s) else raiseInvalidLength s.be (padLen s) s

/-- An accepted MIX command (R159): the flag latched, the index and the output length cleared, the length check, and
`PHASE` set to RUN when it passes. -/
def startMix (be : Bool) (s : State) : State :=
  let t := lenCheck { s with be := be, idx := 0, lenOut := 0, outStamp := s.outStamp + 1 }
  if lenOk (padLen s) then t.setPhase .run else t

/-- A MIX command is acted on only when no transaction runs (R158 test 1). -/
def mixCommand (be : Bool) (s : State) : Host.Outcome State Fault Refusal :=
  .next (if busyFlag s then s else startMix be s)

/-- PADRD (R92): the padded byte into the result latch of its lane and half. A byte the buffer does not have cannot
be read (R40). -/
def padRead (lane : Lane) (j : Nat) (s : State) : Host.Outcome State Fault Refusal :=
  if j < (s.laneLen lane).toNat ∧ s.maxLen.toNat ≤ j then .fault .bufferRange
  else .next (s.setPad lane (j % 2 == 1) (padByte s lane j))

/-- DES for one lane (R96, R97): the two padded bytes through PADRD, low index first, then `S_X` from them. -/
def desLane (be : Bool) (lane : Lane) (s : State) : Host.Outcome State Fault Refusal :=
  andThen (padRead lane (firstIndex s) s) fun t =>
    andThen (padRead lane (secondIndex s) t) fun u =>
      .next (u.setSample lane (dec (u.pad lane false) (u.pad lane true) be))

/-- SER's store (R131, R132, R137): the two bytes of `SO` at the indices of the sample in hand, low index first. A
byte the buffer does not have cannot be written (R40). -/
def serWrite (be : Bool) (s : State) : Host.Outcome State Fault Refusal :=
  if s.maxLen.toNat ≤ secondIndex s then .fault .bufferRange
  else .next (memWrite (memWrite s .out (firstIndex s) (enc s.so be).1) .out (secondIndex s) (enc s.so be).2)

/-- What becomes of the two output bytes of the sample in hand once SER has stored them: they are unspecified where the
sample read an input byte that has not been written since the last reset, and they stand otherwise (R227). The
unspecified bytes are free values (log entry 25). -/
def freeUnwrittenSample (s : State) : State :=
  if sampleWritten s s.idx.toNat then s
  else memWrite (memWrite s .out (firstIndex s) (Config.unspecifiedOutByte s.freeTag s.outStamp (firstIndex s))) .out
    (secondIndex s) (Config.unspecifiedOutByte s.freeTag s.outStamp (secondIndex s))

end Sys2Proof.Machine
end

