-- ==== Sys2Proof/Machine/Command.lean ====
section
/-! DEFINITION. The meanings of the commands MIX.LE, MIX.BE and NOP (spec/43_command.md R158 to R164). -/

namespace Sys2Proof.Machine

/-- `MIX.LE`: `StartMix(0)` when accepted (R160). -/
def execMixLe (s : State) : Host.Outcome State Fault Refusal := mixCommand false s

/-- `MIX.BE`: `StartMix(1)` when accepted (R161). -/
def execMixBe (s : State) : Host.Outcome State Fault Refusal := mixCommand true s

/-- `NOP`: no register, flag or buffer changes, in any phase; the word's `BE` bit is not latched (R164). -/
def execNop (_be : Bool) (s : State) : Host.Outcome State Fault Refusal := .next s

end Sys2Proof.Machine
end

