-- ==== Sys2Proof/Machine/Des.lean ====
section
/-! DEFINITION. The meanings of the deserializer's operations (spec/40_des.md R91, R92, R96, R97). -/

namespace Sys2Proof.Machine

/-- `LENCHK` (R91). -/
def execLenchk (_be : Bool) (s : State) : Host.Outcome State Fault Refusal := .next (lenCheck s)

/-- `PADRD` (R92). -/
def execPadrd (_be : Bool) (lane : Lane) (j : Nat) (s : State) : Host.Outcome State Fault Refusal :=
  padRead lane j s

/-- `DES.LE` (R96). -/
def execDesLe (lane : Lane) (s : State) : Host.Outcome State Fault Refusal := desLane false lane s

/-- `DES.BE` (R97). -/
def execDesBe (lane : Lane) (s : State) : Host.Outcome State Fault Refusal := desLane true lane s

end Sys2Proof.Machine
end

