-- ==== Sys2Proof/Machine/Mix.lean ====
section
/-! DEFINITION. The meanings of the averaging unit's operations (spec/41_mix.md R110, R111). -/

namespace Sys2Proof.Machine

/-- `MIX.SUM` (R110). -/
def execMixSum (_be : Bool) (s : State) : Host.Outcome State Fault Refusal :=
  .next (s.setAcc (sampleSum 32 s.sa s.sb))

/-- `MIX.SRA1` (R111). -/
def execMixSra1 (_be : Bool) (s : State) : Host.Outcome State Fault Refusal :=
  .next (s.setAcc (halve s.acc))

end Sys2Proof.Machine
end

