-- ==== Sys2Proof/Machine/Ser.lean ====
section
/-! DEFINITION. The meanings of the serializer's operations (spec/42_ser.md R130 to R132). -/

namespace Sys2Proof.Machine

/-- `SER.TRUNC` (R130). -/
def execSerTrunc (_be : Bool) (s : State) : Host.Outcome State Fault Refusal :=
  .next (s.setSo (trunc16 s.acc))

/-- `SER.LE` (R131). -/
def execSerLe (s : State) : Host.Outcome State Fault Refusal := serWrite false s

/-- `SER.BE` (R132). -/
def execSerBe (s : State) : Host.Outcome State Fault Refusal := serWrite true s

end Sys2Proof.Machine
end

