-- ==== Sys2Proof/Machine/Dispatch.lean ====
section
/-! DEFINITION. The dispatch: one arm for each operation of spec/opcode_table.json, each one call of its meaning. -/

namespace Sys2Proof.Machine

def exec (i : Instr) (s : State) : Host.Outcome State Fault Refusal :=
  match i with
  -- the commands, format CMD8
  | .mixLe => Sys2Proof.Machine.execMixLe s
  | .mixBe => Sys2Proof.Machine.execMixBe s
  | .nop be => Sys2Proof.Machine.execNop be s
  -- the stages, format STAGE
  | .lenchk be => Sys2Proof.Machine.execLenchk be s
  | .padrd be lane j => Sys2Proof.Machine.execPadrd be lane j s
  | .desLe lane => Sys2Proof.Machine.execDesLe lane s
  | .desBe lane => Sys2Proof.Machine.execDesBe lane s
  | .mixSum be => Sys2Proof.Machine.execMixSum be s
  | .mixSra1 be => Sys2Proof.Machine.execMixSra1 be s
  | .serTrunc be => Sys2Proof.Machine.execSerTrunc be s
  | .serLe => Sys2Proof.Machine.execSerLe s
  | .serBe => Sys2Proof.Machine.execSerBe s

end Sys2Proof.Machine
end

