-- ==== Sys2Proof/Machine/CoreAgent.lean ====
section
/-! DEFINITION. The core: the sample step and the finish step (spec/43_command.md R162, R163, R167). -/

namespace Sys2Proof.Machine

/-- The stages of a sample step, in the order of R162. DES fetches its lane's two bytes through PADRD, so the four
PADRD of the step run inside the two DES stages (log entry 10). -/
def sampleSlots : List Slot := [.des .a, .des .b, .sum, .sra1, .trunc, .ser]

/-- Stages run one after the other, each decoded with the select line driven by `BE` (R81). -/
def runSlots : List Slot → State → Host.Outcome State Fault Refusal
  | [], s => .next s
  | p :: ps, s => andThen (exec (decodeStage p s.be) s) (runSlots ps)

/-- The sample step (R162): the stages, then `IDX <- IDX + 1`. The output bytes of a sample that read an unwritten input
byte become unspecified (R227). -/
def sampleStep (s : State) : Host.Outcome State Fault Refusal :=
  andThen (runSlots sampleSlots s) fun t => .next (((freeUnwrittenSample t).setIdx (t.idx + 1)).bumpStamp)

/-- The finish step (R163). -/
def finishStep (s : State) : State :=
  { s with lenOut := s.lpad, phase := .done, outStamp := s.outStamp + 1 }

/-- The sample step is enabled (R162). -/
def sampleEnabled (s : State) : Bool := busyFlag s && decide (s.idx.toNat < s.lpad.toNat / 2)

/-- The finish step is enabled (R163). -/
def finishEnabled (s : State) : Bool := busyFlag s && decide (s.idx.toNat = s.lpad.toNat / 2)

/-- The core's turn: the enabled step, and nothing where no step is enabled (R52 (d), R205, log entry 15). -/
def coreStep (s : State) : Host.Outcome State Fault Refusal :=
  if sampleEnabled s then sampleStep s
  else if finishEnabled s then .next (finishStep s)
  else .next s

/-- `n` turns of the core, with no host operation between them. -/
def coreSteps : Nat → State → Host.Outcome State Fault Refusal
  | 0, s => .next s
  | n + 1, s => andThen (coreStep s) (coreSteps n)

end Sys2Proof.Machine
end

