-- ==== Sys2Proof/Machine/HostAgent.lean ====
section
/-! DEFINITION. The host: register and byte accesses, the command port, the pseudo-operations (spec/43_command.md R150 to
R158, spec/30_encoding.md R84), and the turn of each agent. -/

namespace Sys2Proof.Machine

/-- `CmdWrite(w)` (R158): the decoded command is executed, which does nothing while BUSY; a reserved word is ignored
whole (R165, log entry 11). -/
def cmdWrite (w : Byte) (s : State) : Host.Outcome State Fault Refusal :=
  match decodeCmd w with
  | .instr i => exec i s
  | .rejected (.reservedWord _) => .next s

/-- A write of `LEN_A` or `LEN_B` (R150): refused while BUSY (U4) and above `MAX_LEN` (U5). -/
def writeLen (lane : Lane) (v : Len) (s : State) : Host.Outcome State Fault Refusal :=
  if busyFlag s then .refused .inputFrozen
  else if s.maxLen < v then .refused .lengthAboveCapacity
  else .next (s.setLen lane v)

/-- `WRR reg, value` (R150). -/
def writeReg (reg : Nat) (v : BitVec 32) (s : State) : Host.Outcome State Fault Refusal :=
  match reg with
  | 0 => cmdWrite (v.setWidth 8) s
  | 1 => .next s
  | 2 => writeLen .a v s
  | 3 => writeLen .b v s
  | 4 => .next s
  | _ => .refused .noSuchRegister

/-- The value `RDR reg` returns (R151). -/
def readReg (reg : Nat) (s : State) : Option ReadValue :=
  match reg with
  | 0 => some (.byte 0)
  | 1 => some (.byte (statusByte s))
  | 2 => some (.word s.lenA)
  | 3 => some (.word s.lenB)
  | 4 => some (.word s.lenOut)
  | _ => none

/-- `RDR reg` (R151). -/
def hostReadReg (reg : Nat) (s : State) : Host.Outcome State Fault Refusal :=
  match readReg reg s with
  | some v => .next (s.pushRead v)
  | none => .refused .noSuchRegister

/-- `WRB space, index, byte` (R152): a write to `OUT` is ignored, a write to an input is refused while BUSY (U4). -/
def writeByte (space : Space) (i : Nat) (v : Byte) (s : State) : Host.Outcome State Fault Refusal :=
  if s.maxLen.toNat ≤ i then .refused .noSuchByte
  else if space = .out then .next s
  else if busyFlag s then .refused .inputFrozen
  else .next (memWrite s space i v)

/-- The byte `RDB space, index` returns (R153): a byte of `BUF_OUT` that is not output is a free value (U2, U3, log
entry 7). -/
def hostByte (space : Space) (i : Nat) (s : State) : Byte :=
  if space = .out ∧ ¬(s.phase = .done ∧ i < s.lenOut.toNat) then Config.hiddenOutByte s.freeTag s.outStamp i
  else readByte s space i

/-- `RDB space, index` (R153). -/
def hostReadByte (space : Space) (i : Nat) (s : State) : Host.Outcome State Fault Refusal :=
  if s.maxLen.toNat ≤ i then .refused .noSuchByte
  else .next (s.pushRead (.byte (hostByte space i s)))

/-- The byte writes of a load, from an index on (R154, R155). -/
def loadBytes (space : Space) : Nat → List Byte → List Turn
  | _, [] => []
  | i, v :: vs => .host (.wrb space i v) :: loadBytes space (i + 1) vs

/-- The number of a lane's length register (R16). -/
def lenRegister : Lane → Nat
  | .a => 2
  | .b => 3

/-- The expansion of `LDA` and `LDB` (R154, R155): the bytes, then the length. -/
def loadTurns (lane : Lane) (bytes : List Byte) : List Turn :=
  loadBytes lane.space 0 bytes ++ [.host (.wrr (lenRegister lane) (BitVec.ofNat 32 bytes.length))]

/-- The expansion of `mix(A, B, be)` (R84, R179). -/
def callTurns (bytesA bytesB : List Byte) (be : Bool) : List Turn :=
  [.host (.lda bytesA), .host (.ldb bytesB), .host (.wrr 0 ((cmdWord be true).setWidth 32)), .host .wait,
    .host .result]

/-- The byte reads of `RDO` for an output of `n` bytes (R157). -/
def readOutTurns (n : Nat) : List Turn := (List.range n).map fun i => .host (.rdb .out i)

/-- Turns put before the ones still to come. -/
def State.prepend (s : State) (p : List Turn) : State := s.setPending (p ++ s.pending)

/-- One host operation. A pseudo-operation puts its expansion before the turns still to come. `WAIT` reads `STATUS`
once; while it finds BUSY it gives the core a turn and waits on (R156, R167, log entry 17). -/
def hostStep (op : HostOp) (s : State) : Host.Outcome State Fault Refusal :=
  match op with
  | .wrr reg v => writeReg reg v s
  | .rdr reg => hostReadReg reg s
  | .wrb space i v => writeByte space i v s
  | .rdb space i => hostReadByte space i s
  | .lda bytes => .next (s.prepend (loadTurns .a bytes))
  | .ldb bytes => .next (s.prepend (loadTurns .b bytes))
  | .wait => andThen (hostReadReg 1 s) fun t =>
      .next (if busyFlag s then t.prepend [.core, .host .wait] else t)
  | .rdo => andThen (hostReadReg 4 s) fun t => .next (t.prepend (readOutTurns s.lenOut.toNat))
  | .result => andThen (hostReadReg 1 s) fun t =>
      .next (if doneFlag s then t.prepend [.host .rdo] else t)
  | .call bytesA bytesB be => .next (s.prepend (callTurns bytesA bytesB be))

/-- One turn. -/
def runTurn (t : Turn) (s : State) : Host.Outcome State Fault Refusal :=
  match t with
  | .host op => hostStep op s
  | .core => coreStep s
  | .reset => .next (resetEvent s)

/-- The next transition: the first turn still to come, and the core's own turn when none is left (R52, R167, log
entries 3 and 15). -/
def nextTurn (s : State) : Host.Outcome State Fault Refusal :=
  match s.pending with
  | [] => coreStep s
  | t :: rest => runTurn t (s.setPending rest)

/-- A state prepared so that the next transition runs one word of the opcode table: a command word is written to
`CMD` by the host's next turn; a select line below a byte wide is latched in `BE` for a sample step that comes next
(log entries 14 and 18). -/
def placeWord (s : State) (nbits w : Nat) : State :=
  if nbits < 8 then
    { s with phase := .run, be := w == 1, idx := 0, lpad := 4, pending := .core :: s.pending }
  else s.prepend [.host (.wrr 0 (BitVec.ofNat 32 w))]

end Sys2Proof.Machine
end

