-- ==== Sys2Proof/Machine/Function.lean ====
section
/-! DEFINITION. The functions of the spec on byte and sample sequences, up to the function `Mix` that a transaction
computes (spec/40_des.md R93, R99, spec/41_mix.md R113, R122, spec/42_ser.md R133, R135, spec/43_command.md R170). -/

namespace Sys2Proof.Machine

/-- `Pad(X, L)`: the bytes of `X` and then zero bytes up to length `L` (R93). -/
def padSeq (x : List Byte) (l : Nat) : List Byte := x ++ List.replicate (l - x.length) 0

/-- The samples of a buffer, two bytes each, in buffer order (R94, R99). -/
def decodePairs (be : Bool) : List Byte → List Sample
  | p :: q :: rest => dec p q be :: decodePairs be rest
  | _ => []

/-- `Decode(P, be)`; `none` is InvalidLengthError (R99). -/
def decodeBuf (p : List Byte) (be : Bool) : Option (List Sample) :=
  if p.length % 4 ≠ 0 then none else some (decodePairs be p)

/-- `Avg(a, b) = floor((a + b) / 2)` (R113): division of integers by 2 rounds toward negative infinity. -/
def avg (a b : Int) : Int := (a + b) / 2

/-- `MixSeq(U, V)` (R122). -/
def mixSeq (u v : List Sample) : List Int := List.zipWith (fun a b => avg a.toInt b.toInt) u v

/-- `Enc(v, be)` of an integer: `Enc` of its 16-bit two's-complement pattern (R133). -/
def encInt (v : Int) (be : Bool) : Byte × Byte := enc (BitVec.ofInt 16 v) be

/-- `Encode(M, be)` (R135). -/
def encodeSeq (m : List Int) (be : Bool) : List Byte := m.flatMap fun v => [(encInt v be).1, (encInt v be).2]

/-- `Mix(A, B, be)`; `none` is InvalidLengthError (R170). -/
def mixFn (a b : List Byte) (be : Bool) : Option (List Byte) :=
  let l := max a.length b.length
  if l % 4 ≠ 0 then none
  else
    match decodeBuf (padSeq a l) be, decodeBuf (padSeq b l) be with
    | some u, some v => some (encodeSeq (mixSeq u v) be)
    | _, _ => none

/-- The input of a lane as a byte sequence: `BUF_X[0 .. LEN_X - 1]` (R13, R14, R171). -/
def inputBytes (s : State) (lane : Lane) : List Byte :=
  (List.range (s.laneLen lane).toNat).map (readByte s lane.space)

/-- The output buffer as a byte sequence: `BUF_OUT[0 .. LEN_OUT - 1]` (R26). -/
def outputBytes (s : State) : List Byte := (List.range s.lenOut.toNat).map (readByte s .out)

/-- The mean of sample `i` of the two padded inputs, the value whose two bytes the sample step stores (R162). -/
def meanAt (s : State) (be : Bool) (i : Nat) : Int :=
  avg (dec (padByte s .a (2 * i)) (padByte s .a (2 * i + 1)) be).toInt
    (dec (padByte s .b (2 * i)) (padByte s .b (2 * i + 1)) be).toInt

end Sys2Proof.Machine
end

