-- ==== Sys2Proof/Machine/Instances.lean ====
section
/-! DEFINITION. Several instances: each has its own complete state, and they share nothing (spec/60_exceptions.md R206). -/

namespace Sys2Proof.Machine

/-- One transition of instance `k` of a platform; the other instances keep their states. `none` where there is no
instance `k` or its transition stops (log entry 19). -/
def stepInstance (k : Nat) (states : List State) : Option (List State) :=
  match states[k]? with
  | some s =>
    match nextTurn s with
    | .next t => some (states.set k t)
    | .fault _ => none
    | .refused _ => none
  | none => none

/-- A platform of `n` instances right after reset. Each has a tag of its own, so that what is unspecified in one says
nothing of what is unspecified in another (log entry 24). -/
def platformReset (n : Nat) : List State := (List.range n).map fun k => { State.reset with freeTag := k }

end Sys2Proof.Machine
end

