-- ==== Sys2Proof/Safety.lean ====
section
/-! DEFINITION. What claims speak of: the invariants of the machine, the moves the host may make, and the end of a run
(spec/10_state.md R19, R29, spec/70_reset_and_hazards.md R224 to R231). -/

namespace Sys2Proof.Safety

open Sys2Proof.Machine

/-- The padded length as a natural number: `max(LEN_A, LEN_B)` (R91). -/
def paddedLength (s : State) : Nat := max s.lenA.toNat s.lenB.toNat

/-- The invariant of R29, with the bounds of R13, R14 and R50 that it rests on. -/
structure Legal (s : State) : Prop where
  /-- `LEN_A ≤ MAX_LEN` (R13). -/
  lenA_le : s.lenA.toNat ≤ s.maxLen.toNat
  /-- `LEN_B ≤ MAX_LEN` (R14). -/
  lenB_le : s.lenB.toNat ≤ s.maxLen.toNat
  /-- `LPAD ≤ MAX_LEN` (R50). -/
  lpad_le : s.lpad.toNat ≤ s.maxLen.toNat
  /-- R29 (a). -/
  run : s.phase = .run →
    s.lpad.toNat = paddedLength s ∧ s.lpad.toNat % 4 = 0 ∧ s.idx.toNat ≤ s.lpad.toNat / 2 ∧ s.lenOut = 0
  /-- R29 (b). -/
  done : s.phase = .done → s.lenOut = s.lpad ∧ s.lpad.toNat % 4 = 0
  /-- R29 (c). -/
  fail : s.phase = .fail → s.lenOut = 0 ∧ s.lpad.toNat % 4 ≠ 0
  /-- R29 (d). -/
  idle : s.phase = .idle → s.lenOut = 0
  /-- R29 (e). -/
  lenOut_le : s.lenOut.toNat ≤ s.maxLen.toNat

/-- The three buffer memories are in canonical form. -/
def Canonical (s : State) : Prop :=
  Memory.wf s.bufA = true ∧ Memory.wf s.bufB = true ∧ Memory.wf s.bufOut = true

/-- Every input byte below the lengths has been written since the last reset, the host's duty before a MIX command
(R223 (b), R227, R230). -/
def InputsWritten (s : State) : Prop := ∀ (lane : Lane) (j : Nat), byteWritten s lane j = true

/-- R19: in phase RUN the samples below `IDX` have been written to `BUF_OUT[0 .. 2 IDX - 1]`. Where a sample reads an
input byte that has not been written, its two output bytes are unspecified and nothing is said of them (R227). -/
def SamplesDone (s : State) : Prop :=
  s.phase = .run → ∀ i, i < s.idx.toNat → sampleWritten s i = true →
    readByte s .out (2 * i) = (encInt (meanAt s s.be i) s.be).1 ∧
      readByte s .out (2 * i + 1) = (encInt (meanAt s s.be i) s.be).2

/-- The host's moves of the table of R230: what it may do, by phase, with no breach of R13, R16, R40 or R225. The table
does not list the pseudo-operations; they are notation for these moves, and that they may always be written is the
model's choice (log entry 17). -/
def hostMay (s : State) : HostOp → Bool
  | .wrr reg v =>
    decide (reg ≤ 4) && (!(reg == 2 || reg == 3) || (!busyFlag s && decide (v.toNat ≤ s.maxLen.toNat)))
  | .rdr reg => decide (reg ≤ 4)
  | .wrb space i _ => decide (i < s.maxLen.toNat) && (space == .out || !busyFlag s)
  | .rdb _ i => decide (i < s.maxLen.toNat)
  | .lda _ => true
  | .ldb _ => true
  | .wait => true
  | .rdo => true
  | .result => true
  | .call _ _ _ => true

/-- The run is over: `PHASE` is DONE or FAIL (R231). -/
def RunOver (s : State) : Prop := s.phase = .done ∨ s.phase = .fail

/-- The turn that a step takes is a MIX command: a write to `CMD` with `GO` set and `RSV` zero (R75, R158). -/
def startsMix (s : State) : Prop :=
  ∃ v rest, s.pending = .host (.wrr 0 v) :: rest ∧ cmdGo (v.setWidth 8) = true ∧ cmdRsv (v.setWidth 8) = 0

/-- The turn that a step takes is a reset or a MIX command. -/
def startsOrResets (s : State) : Prop := startsMix s ∨ ∃ rest, s.pending = .reset :: rest

/-- `n` steps of the machine. -/
def steps : Nat → State → Host.Outcome State Fault Refusal
  | 0, s => .next s
  | n + 1, s => andThen (step s) (steps n)

end Sys2Proof.Safety
end

