-- ==== Sys2Proof/Certificates/Slice0/Obligations.lean ====
section
/-! DEFINITION. The statements for the provers, from the numbered rules of spec/. -/

open Sys2Proof Sys2Proof.Machine Sys2Proof.Safety

/-! ### Encoding -/

/-- Decoding and encoding agree in both directions (R75 to R82): no operand bit of an encoding is dropped, and no two
codes mean one operation. -/
def Obligations.DecodeEncodeAgree : Prop :=
  (∀ i : Instr, i.wellFormed = true → decode (encode i) = .instr i) ∧
    ∀ (c : Code) (i : Instr), decode c = .instr i → i.wellFormed = true ∧ encode i = c

/-- The command words written out from R76 to R79: four words decode to commands, the 252 words from 0x04 on are
rejected as reserved. -/
def Obligations.CommandWordsDecode : Prop :=
  decode (.cmd 0x01) = .instr .mixLe ∧ decode (.cmd 0x03) = .instr .mixBe ∧
    decode (.cmd 0x00) = .instr (.nop false) ∧ decode (.cmd 0x02) = .instr (.nop true) ∧
    (∀ w : BitVec 8, 4 ≤ w.toNat → decode (.cmd w) = .rejected (.reservedWord w))

/-- The select line (R81): `be` chooses between the little-endian and the big-endian variant of DES and of SER, and no
other stage's effect depends on it. -/
def Obligations.SelectLineChoosesByteOrder : Prop :=
  (∀ lane, decode (.stage (.des lane) 0) = .instr (.desLe lane) ∧
    decode (.stage (.des lane) 1) = .instr (.desBe lane)) ∧
  decode (.stage .ser 0) = .instr .serLe ∧ decode (.stage .ser 1) = .instr .serBe ∧
  ∀ (slot : Slot) (s : State), (∀ lane, slot ≠ .des lane) → slot ≠ .ser →
    exec (decodeStage slot false) s = exec (decodeStage slot true) s

/-! ### The commands -/

/-- R159: an accepted MIX command writes `BE`, `IDX`, `LEN_OUT`, `LPAD` and `PHASE` as its pseudocode says, whatever
the earlier phase other than RUN, and nothing else of the block. (`outStamp` is the model's own, log entry 7.) -/
def Obligations.AcceptedMixCommandResult : Prop :=
  ∀ (s : State) (be : Bool), s.phase ≠ .run →
    exec (if be then .mixBe else .mixLe) s = .next { s with
      be := be, idx := 0, lenOut := 0, lpad := BitVec.ofNat 32 (paddedLength s)
      phase := if paddedLength s % 4 = 0 then .run else .fail
      outStamp := s.outStamp + 1 }

/-- R194: entry to InvalidLengthError. What it writes, what it leaves, and that no core step is enabled after it. -/
def Obligations.InvalidLengthEntry : Prop :=
  ∀ (s : State) (be : Bool), s.phase ≠ .run → paddedLength s % 4 ≠ 0 →
    ∃ t, exec (if be then .mixBe else .mixLe) s = .next t ∧
      t.be = be ∧ t.idx = 0 ∧ t.lenOut = 0 ∧ t.lpad.toNat = paddedLength s ∧ t.phase = .fail ∧ statusByte t = 0x04 ∧
      t.bufOut = s.bufOut ∧ t.bufA = s.bufA ∧ t.bufB = s.bufB ∧ t.lenA = s.lenA ∧ t.lenB = s.lenB ∧
      t.sa = s.sa ∧ t.sb = s.sb ∧ t.acc = s.acc ∧ t.so = s.so ∧ coreStep t = .next t

/-- R158: a write of the word `w` to `CMD`, its tests in the order of the rule. `StartMix` is `startMix`, whose effect
AcceptedMixCommandResult states. -/
def Obligations.CommandWriteFollowsTests : Prop :=
  ∀ (s : State) (v : BitVec 32),
    hostStep (.wrr 0 v) s = .next
      (if s.phase = .run then s
      else if v.extractLsb' 2 6 ≠ 0 then s
      else if v.getLsbD 0 = false then s
      else startMix (v.getLsbD 1) s)

/-- R224: a command written while BUSY is ignored whole, whatever the word, and so is a command operation. -/
def Obligations.CommandWhileBusyIgnored : Prop :=
  ∀ s : State, s.phase = .run →
    (∀ v, hostStep (.wrr 0 v) s = .next s) ∧ exec .mixLe s = .next s ∧ exec .mixBe s = .next s

/-- R164: NOP changes nothing, in any phase, and does not latch the word's `BE` bit. -/
def Obligations.NopChangesNothing : Prop :=
  ∀ (s : State) (be : Bool), exec (.nop be) s = .next s ∧ hostStep (.wrr 0 0x00) s = .next s ∧
    hostStep (.wrr 0 0x02) s = .next s

/-- R165: a reserved command word is ignored whole, even with bit 0 set. -/
def Obligations.ReservedWordIgnored : Prop :=
  ∀ (s : State) (v : BitVec 32), 4 ≤ (v.setWidth 8).toNat → hostStep (.wrr 0 v) s = .next s

/-! ### DES -/

/-- R91: LENCHK latches the padded length and raises InvalidLengthError exactly when it is no multiple of 4. That the
operation run by itself enters the exception with `BE` as latched is the model's choice, log entry 16. -/
def Obligations.LenchkResult : Prop :=
  ∀ (s : State) (be : Bool),
    (paddedLength s % 4 = 0 →
      exec (.lenchk be) s = .next { s with lpad := BitVec.ofNat 32 (paddedLength s) }) ∧
    (paddedLength s % 4 ≠ 0 →
      exec (.lenchk be) s = .next { s with
        idx := 0, lenOut := 0, lpad := BitVec.ofNat 32 (paddedLength s), phase := .fail })

/-- R92: PADRD's result is the buffer's byte below the length and 0x00 from the length on; no register, flag or buffer
changes. The latch that holds the result is the model's own, log entry 8. -/
def Obligations.PadrdResult : Prop :=
  ∀ (s : State) (be : Bool) (lane : Lane) (j : Nat),
    (j < (s.laneLen lane).toNat → j < s.maxLen.toNat) →
    exec (.padrd be lane j) s = .next (s.setPad lane (j % 2 == 1)
      (if j < (s.laneLen lane).toNat then readByte s lane.space j else 0))

/-- R96, R97: DES decodes the padded bytes `2 IDX` and `2 IDX + 1` of its lane, the first byte low for DES.LE and high
for DES.BE; the other lane's sample, every other register, every flag and all memory are unchanged. -/
def Obligations.DesResult : Prop :=
  ∀ (s : State) (lane : Lane) (be : Bool),
    (∀ j, j = 2 * s.idx.toNat ∨ j = 2 * s.idx.toNat + 1 → j < (s.laneLen lane).toNat → j < s.maxLen.toNat) →
    ∃ v : Sample,
      exec (if be then .desBe lane else .desLe lane) s = .next
        (((s.setPad lane false (padByte s lane (2 * s.idx.toNat))).setPad lane true
          (padByte s lane (2 * s.idx.toNat + 1))).setSample lane v) ∧
      v.toNat = if be then
          256 * (padByte s lane (2 * s.idx.toNat)).toNat + (padByte s lane (2 * s.idx.toNat + 1)).toNat
        else 256 * (padByte s lane (2 * s.idx.toNat + 1)).toNat + (padByte s lane (2 * s.idx.toNat)).toNat

/-- The core's accesses to a byte that does not exist (R40) fault: PADRD, DES and SER. No reachable state makes one;
see LegalStepNeverFaults. That the model faults there is log entry 13. -/
def Obligations.AccessOutsideBufferFaults : Prop :=
  (∀ (s : State) (be : Bool) (lane : Lane) (j : Nat), j < (s.laneLen lane).toNat → s.maxLen.toNat ≤ j →
    exec (.padrd be lane j) s = .fault .bufferRange) ∧
  (∀ (s : State) (lane : Lane) (be : Bool) (j : Nat), j = 2 * s.idx.toNat ∨ j = 2 * s.idx.toNat + 1 →
    j < (s.laneLen lane).toNat → s.maxLen.toNat ≤ j →
    exec (if be then .desBe lane else .desLe lane) s = .fault .bufferRange) ∧
  (∀ (s : State) (be : Bool), s.maxLen.toNat ≤ 2 * s.idx.toNat + 1 →
    exec (if be then .serBe else .serLe) s = .fault .bufferRange)

/-- R95: `Dec` as a signed number, and that it is a bijection between byte pairs and samples for each byte order. -/
def Obligations.DecIsSignedBijection : Prop :=
  (∀ p q : Byte, (dec p q true).toInt =
    if p.toNat < 128 then 256 * (p.toNat : Int) + q.toNat else 256 * (p.toNat : Int) + q.toNat - 65536) ∧
  (∀ p q : Byte, (dec p q false).toInt =
    if q.toNat < 128 then 256 * (q.toNat : Int) + p.toNat else 256 * (q.toNat : Int) + p.toNat - 65536) ∧
  ∀ (be : Bool) (v : Sample), ∃ pq : Byte × Byte, dec pq.1 pq.2 be = v ∧
    ∀ pq' : Byte × Byte, dec pq'.1 pq'.2 be = v → pq' = pq

/-- R45: the two byte orders agree on a pair of bytes exactly when the bytes are equal, and each is the other with the
bytes exchanged. -/
def Obligations.DecOrderSensitivity : Prop :=
  ∀ p q : Byte, (dec p q true = dec p q false ↔ p = q) ∧ dec p q true = dec q p false

/-- R100: the two byte orders agree on a whole buffer exactly when every sample's two bytes are equal. -/
def Obligations.DecodeOrderSensitivity : Prop :=
  ∀ p : List Byte, p.length % 4 = 0 →
    (decodeBuf p true = decodeBuf p false ↔ ∀ i, i < p.length / 2 → p[2 * i]? = p[2 * i + 1]?)

/-- R102: in an input of odd length shorter than the padded length, the last real byte is the first byte of its sample:
its unsigned value little-endian, 256 times its signed value big-endian; every later sample is 0. An input of odd length
that is the padded length raises the error. -/
def Obligations.OddLengthInput : Prop :=
  ∀ (s : State) (lane : Lane) (i : Nat), (s.laneLen lane).toNat = 2 * i + 1 →
    (dec (padByte s lane (2 * i)) (padByte s lane (2 * i + 1)) false).toInt = (readByte s lane.space (2 * i)).toNat ∧
    (dec (padByte s lane (2 * i)) (padByte s lane (2 * i + 1)) true).toInt =
      256 * (readByte s lane.space (2 * i)).toInt ∧
    (∀ (k : Nat) (be : Bool), i < k → dec (padByte s lane (2 * k)) (padByte s lane (2 * k + 1)) be = 0) ∧
    (paddedLength s = 2 * i + 1 → s.phase ≠ .run → ∀ be : Bool,
      ∃ t, exec (if be then .mixBe else .mixLe) s = .next t ∧ t.phase = .fail)

/-! ### MIX -/

/-- R110: MIX.SUM puts the exact integer sum of the two samples into `ACC` and changes nothing else. -/
def Obligations.MixSumExact : Prop :=
  ∀ (s : State) (be : Bool), ∃ v : Acc, exec (.mixSum be) s = .next { s with acc := v } ∧
    v.toInt = s.sa.toInt + s.sb.toInt

/-- R111: MIX.SRA1 halves `ACC` rounding down, for either sign: the sign bit is kept, every other bit moves down one
place; nothing else changes. -/
def Obligations.MixSra1Floor : Prop :=
  ∀ (s : State) (be : Bool), ∃ v : Acc, exec (.mixSra1 be) s = .next { s with acc := v } ∧
    v.toInt = s.acc.toInt / 2 ∧ v.getLsbD 31 = s.acc.getLsbD 31 ∧ ∀ k, k < 31 → v.getLsbD k = s.acc.getLsbD (k + 1)

/-- R116: for every accumulator width from 17 on, the 16 bits after MIX.SUM, MIX.SRA1 and SER.TRUNC are the
two's-complement form of `Avg(a, b)`. -/
def Obligations.AccumulatorWidthIrrelevant : Prop :=
  ∀ (w : Nat) (a b : Sample), 17 ≤ w → trunc16 (halve (sampleSum w a b)) = BitVec.ofInt 16 (avg a.toInt b.toInt)

/-- R113, R114: after MIX.SUM, MIX.SRA1 and SER.TRUNC, `ACC` is the mean rounded down, it lies between the two
samples, the bits of `ACC` from 15 up are copies of the sign, and `SO` holds the mean without loss. The extremes are
reached. -/
def Obligations.MeanFitsSixteenBits : Prop :=
  ∀ (s : State) (b1 b2 b3 : Bool), ∃ t : State,
    andThen (exec (.mixSum b1) s) (fun u => andThen (exec (.mixSra1 b2) u) (exec (.serTrunc b3))) = .next t ∧
    t.acc.toInt = avg s.sa.toInt s.sb.toInt ∧ t.so.toInt = t.acc.toInt ∧
    min s.sa.toInt s.sb.toInt ≤ t.so.toInt ∧ t.so.toInt ≤ max s.sa.toInt s.sb.toInt ∧
    (∀ k, 15 ≤ k → k < 32 → t.acc.getLsbD k = t.acc.getLsbD 31) ∧
    (s.sa.toInt = -32768 → s.sb.toInt = -32768 → t.so.toInt = -32768) ∧
    (s.sa.toInt = 32767 → s.sb.toInt = 32767 → t.so.toInt = 32767)

/-! ### SER -/

/-- R130, R139: SER.TRUNC writes the low 16 bits of `ACC`, the residue modulo 65536 of the whole range, to `SO`, and
changes nothing else; a value that fits 16 bits keeps its sign. -/
def Obligations.SerTruncResult : Prop :=
  ∀ (s : State) (be : Bool), ∃ v : Sample, exec (.serTrunc be) s = .next { s with so := v } ∧
    v.toNat = s.acc.toNat % 65536 ∧ (-32768 ≤ s.acc.toInt → s.acc.toInt ≤ 32767 → v.toInt = s.acc.toInt)

/-- R131, R132: SER stores the two bytes of `SO` at `2 IDX` and `2 IDX + 1` of `BUF_OUT`, the least significant byte
first for SER.LE and the most significant byte first for SER.BE. Every other byte of `BUF_OUT` reads as before, and
every register, every flag and the two input buffers are unchanged. -/
def Obligations.SerResult : Prop :=
  ∀ (s : State) (be : Bool), 2 * s.idx.toNat + 1 < s.maxLen.toNat →
    ∃ t : State, exec (if be then .serBe else .serLe) s = .next t ∧ t = { s with bufOut := t.bufOut } ∧
      readByte t .out (2 * s.idx.toNat) = (if be then s.so.extractLsb' 8 8 else s.so.extractLsb' 0 8) ∧
      readByte t .out (2 * s.idx.toNat + 1) = (if be then s.so.extractLsb' 0 8 else s.so.extractLsb' 8 8) ∧
      ∀ i, i ≠ 2 * s.idx.toNat → i ≠ 2 * s.idx.toNat + 1 → readByte t .out i = readByte s .out i

/-- R134: `Enc` and `Dec` are inverse to each other in each byte order, and with the two flags crossed the bytes come
out exchanged. -/
def Obligations.EncDecInverse : Prop :=
  (∀ (p q : Byte) (be : Bool), enc (dec p q be) be = (p, q)) ∧
  (∀ (v : Sample) (be : Bool), dec (enc v be).1 (enc v be).2 be = v) ∧
  ∀ p q : Byte, enc (dec p q true) false = (q, p)

/-- R136: encoding the decoded samples of a valid buffer gives the buffer back, in either byte order. -/
def Obligations.BufferRoundTrip : Prop :=
  ∀ (p : List Byte) (be : Bool), p.length % 4 = 0 →
    ∃ u, decodeBuf p be = some u ∧ u.length = p.length / 2 ∧ encodeSeq (u.map BitVec.toInt) be = p

/-! ### The core steps -/

/-- R162: the sample step, when it is enabled and what it does. `SA`, `SB`, `ACC`, `SO` as the unit operations leave
them, the two output bytes the encoding of the mean, `IDX` advanced by one, every other output byte and everything else
unchanged. The two output bytes are stated where the sample's input bytes below the lengths have been written since the
last reset; where one has not, they are unspecified and the rest of the step is the same (R227). -/
def Obligations.SampleStepResult : Prop :=
  (∀ s : State, sampleEnabled s = true ↔ s.phase = .run ∧ s.idx.toNat < s.lpad.toNat / 2) ∧
  ∀ s : State, Legal s → s.phase = .run → s.idx.toNat < s.lpad.toNat / 2 →
    ∃ t : State, coreStep s = .next t ∧
      t.sa = dec (padByte s .a (2 * s.idx.toNat)) (padByte s .a (2 * s.idx.toNat + 1)) s.be ∧
      t.sb = dec (padByte s .b (2 * s.idx.toNat)) (padByte s .b (2 * s.idx.toNat + 1)) s.be ∧
      t.acc.toInt = avg t.sa.toInt t.sb.toInt ∧ t.so.toInt = t.acc.toInt ∧
      (sampleWritten s s.idx.toNat = true →
        readByte t .out (2 * s.idx.toNat) = (encInt (avg t.sa.toInt t.sb.toInt) s.be).1 ∧
        readByte t .out (2 * s.idx.toNat + 1) = (encInt (avg t.sa.toInt t.sb.toInt) s.be).2) ∧
      (∀ i, i ≠ 2 * s.idx.toNat → i ≠ 2 * s.idx.toNat + 1 → readByte t .out i = readByte s .out i) ∧
      t.idx.toNat = s.idx.toNat + 1 ∧
      t = { s with
        sa := t.sa, sb := t.sb, acc := t.acc, so := t.so, bufOut := t.bufOut, idx := t.idx
        padA0 := t.padA0, padA1 := t.padA1, padB0 := t.padB0, padB1 := t.padB1, outStamp := t.outStamp }

/-- R163: the finish step, when it is enabled, that it writes `LEN_OUT` and `PHASE` and nothing else of the block, and
that no core step is enabled after it. -/
def Obligations.FinishStepResult : Prop :=
  (∀ s : State, finishEnabled s = true ↔ s.phase = .run ∧ s.idx.toNat = s.lpad.toNat / 2) ∧
  ∀ s : State, s.phase = .run → s.idx.toNat = s.lpad.toNat / 2 →
    ∃ t : State, coreStep s = .next t ∧ t = { s with lenOut := s.lpad, phase := .done, outStamp := t.outStamp } ∧
      sampleEnabled t = false ∧ finishEnabled t = false ∧ coreStep t = .next t

/-- R167: in phase RUN exactly one core step is enabled, and a transaction is exactly `LPAD / 2 - IDX` more sample steps
and one finish step: it stays in RUN before its last step and is in DONE after it. -/
def Obligations.TransactionTerminates : Prop :=
  ∀ s : State, Legal s → s.phase = .run →
    (sampleEnabled s ≠ finishEnabled s) ∧
    (∀ k, k ≤ s.lpad.toNat / 2 - s.idx.toNat →
      ∃ t, coreSteps k s = .next t ∧ t.phase = .run ∧ t.idx.toNat = s.idx.toNat + k) ∧
    ∃ t, coreSteps (s.lpad.toNat / 2 - s.idx.toNat + 1) s = .next t ∧ t.phase = .done ∧ t.lenOut = s.lpad

/-- R30: the core never writes `LEN_A`, `LEN_B`, `BUF_A` or `BUF_B`, in any state. -/
def Obligations.CoreNeverWritesInputs : Prop :=
  ∀ s t : State, coreStep s = .next t →
    t.lenA = s.lenA ∧ t.lenB = s.lenB ∧ t.bufA = s.bufA ∧ t.bufB = s.bufB ∧ t.be = s.be ∧ t.lpad = s.lpad ∧
      t.reads = s.reads ∧ t.pending = s.pending

/-! ### The step -/

/-- A step at a write of `CMD` runs the decoded command on the state with that turn taken (R158). -/
def Obligations.StepRunsDecodedCommand : Prop :=
  ∀ (s : State) (v : BitVec 32) (rest : List Turn) (i : Instr), s.pending = .host (.wrr 0 v) :: rest →
    decode (.cmd (v.setWidth 8)) = .instr i → step s = exec i { s with pending := rest }

/-- A step of the core at an enabled sample runs the decoded stages one after the other, each with the line that `BE`
drives, frees the output bytes of a sample that read an unwritten input byte (R227, log entry 25), and then advances
`IDX` (R81, R162). The order in which the two lanes fetch and decode is log entry 10. -/
def Obligations.StepRunsDecodedStages : Prop :=
  ∀ s : State, s.pending = [] → s.phase = .run → s.idx.toNat < s.lpad.toNat / 2 →
    step s =
      andThen (exec (decodeStage (.des .a) s.be) s) fun s1 =>
      andThen (exec (decodeStage (.des .b) s1.be) s1) fun s2 =>
      andThen (exec (decodeStage .sum s2.be) s2) fun s3 =>
      andThen (exec (decodeStage .sra1 s3.be) s3) fun s4 =>
      andThen (exec (decodeStage .trunc s4.be) s4) fun s5 =>
      andThen (exec (decodeStage .ser s5.be) s5) fun s6 =>
        .next { freeUnwrittenSample s6 with idx := s6.idx + 1, outStamp := s6.outStamp + 1 }

/-- The word placed for the next step is the word that step runs. -/
def Obligations.PlacedWordRuns : Prop :=
  ∀ (s : State) (w : Nat) (i : Instr), decodeTableWord 8 w = some i → step (s.withFetchWord 8 w) = exec i s

/-! ### The host -/

/-- R12, R24: the status byte by phase, and its bits. A read of `STATUS` returns it and clears nothing, a write is
ignored, and it is 0x00 right after reset. -/
def Obligations.StatusIsViewOfPhase : Prop :=
  ∀ s : State,
    statusByte s = (match s.phase with | .idle => 0x00 | .run => 0x01 | .done => 0x02 | .fail => 0x04) ∧
    ((statusByte s).getLsbD 0 = true ↔ s.phase = .run) ∧ ((statusByte s).getLsbD 1 = true ↔ s.phase = .done) ∧
    ((statusByte s).getLsbD 2 = true ↔ s.phase = .fail) ∧ (∀ k, 3 ≤ k → (statusByte s).getLsbD k = false) ∧
    hostStep (.rdr 1) s = .next { s with reads := s.reads ++ [.byte (statusByte s)] } ∧
    (∀ v, hostStep (.wrr 1 v) s = .next s) ∧ statusByte State.reset = 0x00

/-- R151: a read of a control register returns its value and changes nothing of the block. -/
def Obligations.RegisterReads : Prop :=
  ∀ s : State,
    hostStep (.rdr 0) s = .next { s with reads := s.reads ++ [.byte 0x00] } ∧
    hostStep (.rdr 1) s = .next { s with reads := s.reads ++ [.byte (statusByte s)] } ∧
    hostStep (.rdr 2) s = .next { s with reads := s.reads ++ [.word s.lenA] } ∧
    hostStep (.rdr 3) s = .next { s with reads := s.reads ++ [.word s.lenB] } ∧
    hostStep (.rdr 4) s = .next { s with reads := s.reads ++ [.word s.lenOut] }

/-- R150: a write of `CMD` is `CmdWrite` of the low 8 bits (CommandWriteFollowsTests says what that does); a legal write
of a length register writes it alone; writes of `STATUS` and `LEN_OUT` are ignored. -/
def Obligations.RegisterWrites : Prop :=
  ∀ (s : State) (v : BitVec 32),
    hostStep (.wrr 0 v) s = cmdWrite (v.setWidth 8) s ∧
    hostStep (.wrr 1 v) s = .next s ∧ hostStep (.wrr 4 v) s = .next s ∧
    (s.phase ≠ .run → v.toNat ≤ s.maxLen.toNat →
      hostStep (.wrr 2 v) s = .next { s with lenA := v } ∧ hostStep (.wrr 3 v) s = .next { s with lenB := v })

/-- R152: a host write of an input byte can be read back at once, changes no other byte of any space and no register;
a write to `OUT` is ignored in every phase. -/
def Obligations.ByteWrites : Prop :=
  ∀ (s : State) (i : Nat) (v : Byte), i < s.maxLen.toNat →
    hostStep (.wrb .out i v) s = .next s ∧
    ∀ lane : Lane, s.phase ≠ .run →
      ∃ t, hostStep (.wrb lane.space i v) s = .next t ∧ t = { s with bufA := t.bufA, bufB := t.bufB } ∧
        readByte t lane.space i = v ∧
        ∀ (sp : Space) (j : Nat), sp ≠ lane.space ∨ j ≠ i → readByte t sp j = readByte s sp j

/-- R153: a host read of a byte returns what the space holds, for `BUF_OUT` in phase DONE below `LEN_OUT`; elsewhere in
`BUF_OUT` some byte is returned (U2, U3). No read changes the block, and a repeated read returns the same value
(R49). -/
def Obligations.ByteReads : Prop :=
  ∀ (s : State) (sp : Space) (i : Nat), i < s.maxLen.toNat →
    ∃ v, hostStep (.rdb sp i) s = .next { s with reads := s.reads ++ [.byte v] } ∧
      (sp ≠ .out ∨ (s.phase = .done ∧ i < s.lenOut.toNat) → v = readByte s sp i) ∧
      hostStep (.rdb sp i) { s with reads := s.reads ++ [.byte v] } =
        .next { s with reads := s.reads ++ [.byte v] ++ [.byte v] }

/-- The host moves with no specified effect are refused (R225, U4 to U7; log entry 12). -/
def Obligations.UnspecifiedHostMovesRefused : Prop :=
  (∀ (s : State) (v : BitVec 32), s.phase = .run →
    hostStep (.wrr 2 v) s = .refused .inputFrozen ∧ hostStep (.wrr 3 v) s = .refused .inputFrozen) ∧
  (∀ (s : State) (lane : Lane) (i : Nat) (v : Byte), s.phase = .run → i < s.maxLen.toNat →
    hostStep (.wrb lane.space i v) s = .refused .inputFrozen) ∧
  (∀ (s : State) (v : BitVec 32), s.phase ≠ .run → s.maxLen.toNat < v.toNat →
    hostStep (.wrr 2 v) s = .refused .lengthAboveCapacity ∧ hostStep (.wrr 3 v) s = .refused .lengthAboveCapacity) ∧
  (∀ (s : State) (reg : Nat) (v : BitVec 32), 4 < reg →
    hostStep (.wrr reg v) s = .refused .noSuchRegister ∧ hostStep (.rdr reg) s = .refused .noSuchRegister) ∧
  ∀ (s : State) (sp : Space) (i : Nat) (v : Byte), s.maxLen.toNat ≤ i →
    hostStep (.wrb sp i v) s = .refused .noSuchByte ∧ hostStep (.rdb sp i) s = .refused .noSuchByte

/-- R230: of the primitive operations WRR, RDR, WRB and RDB, the moves of the host table are exactly those that
complete. The table does not list the pseudo-operations LDA, LDB, WAIT, RDO, the end of a call and the call: that each
may always be written and its own step always completes, since that step at most reads `STATUS` or `LEN_OUT` and puts
the rest of its expansion before the turns to come, is the model's choice (log entry 17). What R154 and R155 require
of a load, a phase other than RUN and a length of at most `MAX_LEN`, is required of the writes it expands into, which
are refused where it is not kept. -/
def Obligations.HostTableIsExact : Prop :=
  ∀ (s : State) (op : HostOp), hostMay s op = true ↔ ∃ t, hostStep op s = .next t

/-- R30: a host operation that is no accepted MIX command writes none of the core's registers and no byte of
`BUF_OUT`. -/
def Obligations.HostNeverWritesCoreRegisters : Prop :=
  ∀ (s t : State) (op : HostOp), hostStep op s = .next t →
    (∃ v, op = .wrr 0 v ∧ s.phase ≠ .run ∧ (v.setWidth 8 = (0x01 : Byte) ∨ v.setWidth 8 = (0x03 : Byte))) ∨
    (t.phase = s.phase ∧ t.lenOut = s.lenOut ∧ t.be = s.be ∧ t.idx = s.idx ∧ t.lpad = s.lpad ∧ t.sa = s.sa ∧
      t.sb = s.sb ∧ t.acc = s.acc ∧ t.so = s.so ∧ t.bufOut = s.bufOut)

/-- R156: `WAIT` ends, with BUSY clear, from any state that keeps the invariant. -/
def Obligations.WaitEnds : Prop :=
  ∀ (s : State) (rest : List Turn), Legal s → s.pending = .host .wait :: rest →
    ∃ (n : Nat) (t : State), steps n s = .next t ∧ t.pending = rest ∧ t.phase ≠ .run

/-! ### Reset -/

/-- R220: the reset event, in any phase. The values of R28; no buffer byte keeps what was written to it, and no core
step is enabled. -/
def Obligations.ResetEventResult : Prop :=
  ∀ (s : State) (rest : List Turn), s.pending = .reset :: rest →
    ∃ t, step s = .next t ∧ t.phase = .idle ∧ t.lenA = 0 ∧ t.lenB = 0 ∧ t.lenOut = 0 ∧ t.be = false ∧ t.idx = 0 ∧
      t.lpad = 0 ∧ statusByte t = 0x00 ∧ t.bufA = [] ∧ t.bufB = [] ∧ t.bufOut = [] ∧ t.pending = rest ∧
      coreStep t = .next t

/-- R28: the state right after reset, and that a MIX command then gives the empty transaction. That `SA`, `SB`, `ACC`
and `SO` are 0 is the model's choice (log entry 4) and is not stated. -/
def Obligations.ResetStateValues : Prop :=
  State.reset.phase = .idle ∧ statusByte State.reset = 0x00 ∧ State.reset.lenA = 0 ∧ State.reset.lenB = 0 ∧
    State.reset.lenOut = 0 ∧ State.reset.be = false ∧ State.reset.idx = 0 ∧ State.reset.lpad = 0 ∧
    (∀ sp, memFind (State.reset.buf sp) = fun _ => none) ∧
    ∀ be : Bool, ∃ t, andThen (exec (if be then .mixBe else .mixLe) State.reset) coreStep = .next t ∧
      t.phase = .done ∧ t.lenOut = 0

/-! ### Invariants and whole-machine rules -/

/-- The three invariants hold right after reset. -/
def Obligations.ResetKeepsInvariants : Prop :=
  Legal State.reset ∧ Canonical State.reset ∧ SamplesDone State.reset

/-- R29: the invariant holds right after reset, and every step, whatever the turn, keeps it. -/
def Obligations.StepKeepsLegal : Prop :=
  Legal State.reset ∧ ∀ s t : State, Legal s → step s = .next t → Legal t

/-- Every step keeps the three buffer memories in canonical form. -/
def Obligations.StepKeepsCanonical : Prop :=
  ∀ s t : State, Canonical s → step s = .next t → Canonical t

/-- R19: every step keeps the rule that in phase RUN the samples below `IDX` have been decoded, mixed, encoded and
written to `BUF_OUT[0 .. 2 IDX - 1]`. Nothing is said of the bytes of a sample with an unwritten input byte (R227). -/
def Obligations.StepKeepsSamplesDone : Prop :=
  ∀ s t : State, Legal s → SamplesDone s → step s = .next t → SamplesDone t

/-- R18: the codes of `PHASE`, its reset value, and its transitions, and no others: to RUN or FAIL by a MIX command
outside RUN, from RUN to DONE at the end of the samples, to IDLE by reset. -/
def Obligations.PhaseTransitions : Prop :=
  Phase.code .idle = 0 ∧ Phase.code .run = 1 ∧ Phase.code .done = 2 ∧ Phase.code .fail = 3 ∧
  State.reset.phase = .idle ∧
  ∀ s t : State, step s = .next t →
    t.phase = s.phase ∨
    (s.phase ≠ .run ∧ (t.phase = .run ∨ t.phase = .fail) ∧ startsMix s) ∨
    (s.phase = .run ∧ t.phase = .done ∧ s.idx.toNat = s.lpad.toNat / 2 ∧
      (s.pending = [] ∨ ∃ rest, s.pending = .core :: rest)) ∨
    (t.phase = .idle ∧ ∃ rest, s.pending = .reset :: rest)

/-- R53 (b), R228: in phase DONE the output stays as it is over every step that is neither a reset nor a MIX command. -/
def Obligations.OutputStableAfterDone : Prop :=
  ∀ s t : State, s.phase = .done → ¬ startsOrResets s → step s = .next t →
    t.phase = .done ∧ t.lenOut = s.lenOut ∧ outputBytes t = outputBytes s

/-- R50: from a state that keeps the invariant no step makes an access outside a buffer. -/
def Obligations.LegalStepNeverFaults : Prop :=
  ∀ (s : State) (r : Fault), Legal s → step s ≠ .fault r

/-- R4: the parameter `MAX_LEN` is no state of the block: no step changes it, nor the tag of the instance (log entry
24). -/
def Obligations.StepKeepsCapacity : Prop :=
  ∀ s t : State, step s = .next t → t.maxLen = s.maxLen ∧ t.freeTag = s.freeTag

/-- R206: a transition of one instance leaves every other instance as it was, and transitions of different instances
may be taken in either order with the same result. The instances of a platform start with different tags of free values
and keep them: that is how the model keeps apart what is unspecified in each (log entry 24). -/
def Obligations.InstancesIndependent : Prop :=
  (∀ (i k : Nat) (l l' : List State), stepInstance i l = some l' → k ≠ i → l'[k]? = l[k]?) ∧
  (∀ (i k : Nat) (l : List State), i ≠ k →
    (stepInstance i l).bind (stepInstance k) = (stepInstance k l).bind (stepInstance i)) ∧
  (∀ n, ((platformReset n).map State.freeTag).Nodup) ∧
  ∀ (i : Nat) (l l' : List State), stepInstance i l = some l' → l'.map State.freeTag = l.map State.freeTag

/-! ### The function of a transaction -/

/-- R170, spelled out: the result has the padded length, and its bytes are the encoding of the mean at each index. -/
def Obligations.MixSpelledOut : Prop :=
  ∀ (a b : List Byte) (be : Bool) (o : List Byte), mixFn a b be = some o →
    o.length = max a.length b.length ∧
    ∀ i, i < max a.length b.length / 2 →
      o[2 * i]? = some (encInt (avg (dec (a.getD (2 * i) 0) (a.getD (2 * i + 1) 0) be).toInt
        (dec (b.getD (2 * i) 0) (b.getD (2 * i + 1) 0) be).toInt) be).1 ∧
      o[2 * i + 1]? = some (encInt (avg (dec (a.getD (2 * i) 0) (a.getD (2 * i + 1) 0) be).toInt
        (dec (b.getD (2 * i) 0) (b.getD (2 * i + 1) 0) be).toInt) be).2

/-- R176, R196: the error exactly when the padded length is no multiple of 4, and otherwise an output of exactly the
padded length, a multiple of 4. -/
def Obligations.MixLength : Prop :=
  ∀ (a b : List Byte) (be : Bool),
    (mixFn a b be = none ↔ max a.length b.length % 4 ≠ 0) ∧
    ∀ o, mixFn a b be = some o →
      o.length = max a.length b.length ∧ o.length % 4 = 0 ∧ o.length = 2 * max (a.length / 2) (b.length / 2)

/-- R175: exchanging the two inputs does not change the result, errors included. -/
def Obligations.MixSymmetric : Prop :=
  ∀ (a b : List Byte) (be : Bool), mixFn a b be = mixFn b a be

/-- R177: mixing with silence, of equal length or shorter, halves every sample rounding down. -/
def Obligations.MixWithSilence : Prop :=
  ∀ (a : List Byte) (be : Bool) (n : Nat), a.length % 4 = 0 → n ≤ a.length →
    mixFn a (List.replicate n 0) be = some (encodeSeq ((decodePairs be a).map fun v => v.toInt / 2) be)

/-- R174: the empty transaction ends in DONE with no output after the one finish step, from any phase but RUN. -/
def Obligations.EmptyTransaction : Prop :=
  ∀ (s : State) (be : Bool), s.phase ≠ .run → s.lenA = 0 → s.lenB = 0 →
    ∃ t, andThen (exec (if be then .mixBe else .mixLe) s) coreStep = .next t ∧ t.phase = .done ∧ t.lenOut = 0 ∧
      mixFn [] [] be = some []

/-- R170: a transaction computes `Mix`. From every state that keeps the invariant and is not in RUN, an accepted MIX
command and `L / 2 + 1` turns of the core end in DONE with the output of `Mix` in `BUF_OUT`, or in FAIL when `Mix` is
the error; the inputs are as they were. An input byte below its length that has not been written since the last reset
leaves the two output bytes of its sample unspecified, and nothing else: not the outcome, the length or any other sample
(R227). With the host's duty kept, every byte is that of `Mix`. -/
def Obligations.TransactionComputesMix : Prop :=
  ∀ (s : State) (be : Bool), Legal s → s.phase ≠ .run →
    ∃ t, andThen (exec (if be then .mixBe else .mixLe) s) (coreSteps (paddedLength s / 2 + 1)) = .next t ∧
      t.bufA = s.bufA ∧ t.bufB = s.bufB ∧ t.lenA = s.lenA ∧ t.lenB = s.lenB ∧
      match mixFn (inputBytes s .a) (inputBytes s .b) be with
      | some o => t.phase = .done ∧ statusByte t = 0x02 ∧ t.lenOut.toNat = o.length ∧
          (∀ i, sampleWritten s i = true →
            (outputBytes t)[2 * i]? = o[2 * i]? ∧ (outputBytes t)[2 * i + 1]? = o[2 * i + 1]?) ∧
          (InputsWritten s → outputBytes t = o)
      | none => t.phase = .fail ∧ statusByte t = 0x04 ∧ t.lenOut = 0

/-- R27, R171: what a transaction leaves depends on the two inputs and the flag alone. Two states that agree on the
input bytes, and on nothing else, end with the same status and output length; with the same output bytes of every sample
whose input bytes have been written in both, and so with the same output where the host has written all of them (R227).
-/
def Obligations.TransactionIsFunctionOfInputs : Prop :=
  ∀ (s u : State) (be : Bool), Legal s → Legal u → s.phase ≠ .run → u.phase ≠ .run →
    inputBytes s .a = inputBytes u .a → inputBytes s .b = inputBytes u .b →
    ∃ t v, andThen (exec (if be then .mixBe else .mixLe) s) (coreSteps (paddedLength s / 2 + 1)) = .next t ∧
      andThen (exec (if be then .mixBe else .mixLe) u) (coreSteps (paddedLength u / 2 + 1)) = .next v ∧
      t.phase = v.phase ∧ statusByte t = statusByte v ∧ t.lenOut = v.lenOut ∧
      (∀ i, sampleWritten s i = true → sampleWritten u i = true →
        (outputBytes t)[2 * i]? = (outputBytes v)[2 * i]? ∧
        (outputBytes t)[2 * i + 1]? = (outputBytes v)[2 * i + 1]?) ∧
      (InputsWritten s → InputsWritten u → outputBytes t = outputBytes v)

/-- R170, R179: the calling sequence. From every state that keeps the invariant and is not in RUN, the turns of the
call `mix(a, b, be)` all complete, and what the host has read ends with DONE, the output length and the bytes of
`Mix(a, b, be)`, or with ERR when that is the error; the block is left as R170 says, the inputs as they were loaded. -/
def Obligations.CallReturnsMix : Prop :=
  ∀ (s : State) (a b : List Byte) (be : Bool), Legal s → s.phase ≠ .run → s.pending = [.host (.call a b be)] →
    a.length ≤ s.maxLen.toNat → b.length ≤ s.maxLen.toNat →
    ∃ (n : Nat) (t : State) (polls : List ReadValue), steps n s = .next t ∧ t.pending = [] ∧
      inputBytes t .a = a ∧ inputBytes t .b = b ∧
      match mixFn a b be with
      | some o => t.phase = .done ∧ t.lenOut.toNat = o.length ∧ outputBytes t = o ∧
          t.reads = s.reads ++ polls ++ [.byte 0x02, .word (BitVec.ofNat 32 o.length)] ++ o.map .byte
      | none => t.phase = .fail ∧ t.lenOut = 0 ∧ t.reads = s.reads ++ polls ++ [.byte 0x04]
end

