-- ==== Sys2Proof/Laws/Arith.lean ====
section
/-! SUPPORT. The arithmetic of the datapath as integers, the bytes of a sample, and the length test. -/

namespace Sys2Proof.Machine

/-- A sum of two samples fits 17 bits, so at any accumulator width from 17 on it is the sum of the integers. -/
theorem sampleSum_toInt {w : Nat} (hw : 17 ≤ w) (a b : Sample) :
    (sampleSum w a b).toInt = a.toInt + b.toInt := by
  have ha := BitVec.toInt_lt (x := a)
  have ha' := BitVec.le_toInt (x := a)
  have hb := BitVec.toInt_lt (x := b)
  have hb' := BitVec.le_toInt (x := b)
  have hp : (2 : Int) ^ 17 ≤ 2 ^ w := by exact_mod_cast Nat.pow_le_pow_right (by norm_num) hw
  rw [sampleSum, BitVec.toInt_add, BitVec.toInt_signExtend_of_le (by omega),
    BitVec.toInt_signExtend_of_le (by omega)]
  norm_num at *
  apply Int.bmod_eq_of_le <;> push_cast <;> omega

/-- The arithmetic shift by one is division by two rounding down. -/
theorem halve_toInt {w : Nat} (v : BitVec w) : (halve v).toInt = v.toInt / 2 := by
  simp [halve, BitVec.toInt_sshiftRight, Int.shiftRight_eq_div_pow]

/-- The truncation to 16 bits is the residue of the integer. -/
theorem trunc16_eq_ofInt {w : Nat} (hw : 17 ≤ w) (v : BitVec w) : trunc16 v = BitVec.ofInt 16 v.toInt := by
  apply BitVec.eq_of_toInt_eq
  rw [trunc16, BitVec.toInt_setWidth, BitVec.toInt_ofInt, BitVec.toInt_eq_toNat_bmod,
    Int.bmod_bmod_of_dvd (Nat.pow_dvd_pow 2 (by omega))]

theorem byte_append_toNat (p q : Byte) : (p ++ q).toNat = 256 * p.toNat + q.toNat := by
  rw [BitVec.toNat_append, ← Nat.shiftLeft_add_eq_or_of_lt q.isLt, Nat.shiftLeft_eq]
  omega

theorem append_low (p q : Byte) : (p ++ q).extractLsb' 0 8 = q := by
  apply BitVec.eq_of_toNat_eq
  have := q.isLt
  rw [BitVec.extractLsb'_toNat, byte_append_toNat]
  omega

theorem append_high (p q : Byte) : (p ++ q).extractLsb' 8 8 = p := by
  apply BitVec.eq_of_toNat_eq
  have := q.isLt
  have := p.isLt
  rw [BitVec.extractLsb'_toNat, byte_append_toNat, Nat.shiftRight_eq_div_pow]
  omega

/-- A sample is its most significant byte and its least significant byte. -/
theorem bytes_append (v : Sample) : v.extractLsb' 8 8 ++ v.extractLsb' 0 8 = v := by
  apply BitVec.eq_of_toNat_eq
  have := v.isLt
  rw [byte_append_toNat, BitVec.extractLsb'_toNat, BitVec.extractLsb'_toNat, Nat.shiftRight_eq_div_pow]
  omega

/-- The test of the two low bits is the test modulo 4. -/
theorem lenOk_iff (l : Len) : lenOk l = true ↔ l.toNat % 4 = 0 := by
  rw [lenOk, beq_iff_eq, ← BitVec.toNat_inj, BitVec.extractLsb'_toNat]
  simp

theorem padLen_toNat (s : State) : (padLen s).toNat = max s.lenA.toNat s.lenB.toNat := by
  simp only [padLen, BitVec.lt_def]
  split_ifs <;> omega

/-- The greater length as a 32-bit value. -/
theorem padLen_eq_ofNat (s : State) : padLen s = BitVec.ofNat 32 (max s.lenA.toNat s.lenB.toNat) := by
  rw [← padLen_toNat, BitVec.ofNat_toNat, BitVec.setWidth_eq]

end Sys2Proof.Machine
end

