-- ==== Sys2Proof/Laws/State.lean ====
section
/-! SUPPORT. One lemma for each field under each named update of State, so that no later proof unfolds a record update. -/

namespace Sys2Proof.Machine

@[simp] theorem State.setPhase_phase (s : State) (v : Phase) : (s.setPhase v).phase = v := rfl
@[simp] theorem State.setPhase_lenA (s : State) (v : Phase) : (s.setPhase v).lenA = s.lenA := rfl
@[simp] theorem State.setPhase_lenB (s : State) (v : Phase) : (s.setPhase v).lenB = s.lenB := rfl
@[simp] theorem State.setPhase_lenOut (s : State) (v : Phase) : (s.setPhase v).lenOut = s.lenOut := rfl
@[simp] theorem State.setPhase_be (s : State) (v : Phase) : (s.setPhase v).be = s.be := rfl
@[simp] theorem State.setPhase_idx (s : State) (v : Phase) : (s.setPhase v).idx = s.idx := rfl
@[simp] theorem State.setPhase_lpad (s : State) (v : Phase) : (s.setPhase v).lpad = s.lpad := rfl
@[simp] theorem State.setPhase_sa (s : State) (v : Phase) : (s.setPhase v).sa = s.sa := rfl
@[simp] theorem State.setPhase_sb (s : State) (v : Phase) : (s.setPhase v).sb = s.sb := rfl
@[simp] theorem State.setPhase_acc (s : State) (v : Phase) : (s.setPhase v).acc = s.acc := rfl
@[simp] theorem State.setPhase_so (s : State) (v : Phase) : (s.setPhase v).so = s.so := rfl
@[simp] theorem State.setPhase_bufA (s : State) (v : Phase) : (s.setPhase v).bufA = s.bufA := rfl
@[simp] theorem State.setPhase_bufB (s : State) (v : Phase) : (s.setPhase v).bufB = s.bufB := rfl
@[simp] theorem State.setPhase_bufOut (s : State) (v : Phase) : (s.setPhase v).bufOut = s.bufOut := rfl
@[simp] theorem State.setPhase_padA0 (s : State) (v : Phase) : (s.setPhase v).padA0 = s.padA0 := rfl
@[simp] theorem State.setPhase_padA1 (s : State) (v : Phase) : (s.setPhase v).padA1 = s.padA1 := rfl
@[simp] theorem State.setPhase_padB0 (s : State) (v : Phase) : (s.setPhase v).padB0 = s.padB0 := rfl
@[simp] theorem State.setPhase_padB1 (s : State) (v : Phase) : (s.setPhase v).padB1 = s.padB1 := rfl
@[simp] theorem State.setPhase_maxLen (s : State) (v : Phase) : (s.setPhase v).maxLen = s.maxLen := rfl
@[simp] theorem State.setPhase_pending (s : State) (v : Phase) : (s.setPhase v).pending = s.pending := rfl
@[simp] theorem State.setPhase_reads (s : State) (v : Phase) : (s.setPhase v).reads = s.reads := rfl
@[simp] theorem State.setPhase_resetCount (s : State) (v : Phase) : (s.setPhase v).resetCount = s.resetCount := rfl
@[simp] theorem State.setPhase_outStamp (s : State) (v : Phase) : (s.setPhase v).outStamp = s.outStamp := rfl
@[simp] theorem State.setPhase_freeTag (s : State) (v : Phase) : (s.setPhase v).freeTag = s.freeTag := rfl

@[simp] theorem State.setLpad_phase (s : State) (v : Len) : (s.setLpad v).phase = s.phase := rfl
@[simp] theorem State.setLpad_lenA (s : State) (v : Len) : (s.setLpad v).lenA = s.lenA := rfl
@[simp] theorem State.setLpad_lenB (s : State) (v : Len) : (s.setLpad v).lenB = s.lenB := rfl
@[simp] theorem State.setLpad_lenOut (s : State) (v : Len) : (s.setLpad v).lenOut = s.lenOut := rfl
@[simp] theorem State.setLpad_be (s : State) (v : Len) : (s.setLpad v).be = s.be := rfl
@[simp] theorem State.setLpad_idx (s : State) (v : Len) : (s.setLpad v).idx = s.idx := rfl
@[simp] theorem State.setLpad_lpad (s : State) (v : Len) : (s.setLpad v).lpad = v := rfl
@[simp] theorem State.setLpad_sa (s : State) (v : Len) : (s.setLpad v).sa = s.sa := rfl
@[simp] theorem State.setLpad_sb (s : State) (v : Len) : (s.setLpad v).sb = s.sb := rfl
@[simp] theorem State.setLpad_acc (s : State) (v : Len) : (s.setLpad v).acc = s.acc := rfl
@[simp] theorem State.setLpad_so (s : State) (v : Len) : (s.setLpad v).so = s.so := rfl
@[simp] theorem State.setLpad_bufA (s : State) (v : Len) : (s.setLpad v).bufA = s.bufA := rfl
@[simp] theorem State.setLpad_bufB (s : State) (v : Len) : (s.setLpad v).bufB = s.bufB := rfl
@[simp] theorem State.setLpad_bufOut (s : State) (v : Len) : (s.setLpad v).bufOut = s.bufOut := rfl
@[simp] theorem State.setLpad_padA0 (s : State) (v : Len) : (s.setLpad v).padA0 = s.padA0 := rfl
@[simp] theorem State.setLpad_padA1 (s : State) (v : Len) : (s.setLpad v).padA1 = s.padA1 := rfl
@[simp] theorem State.setLpad_padB0 (s : State) (v : Len) : (s.setLpad v).padB0 = s.padB0 := rfl
@[simp] theorem State.setLpad_padB1 (s : State) (v : Len) : (s.setLpad v).padB1 = s.padB1 := rfl
@[simp] theorem State.setLpad_maxLen (s : State) (v : Len) : (s.setLpad v).maxLen = s.maxLen := rfl
@[simp] theorem State.setLpad_pending (s : State) (v : Len) : (s.setLpad v).pending = s.pending := rfl
@[simp] theorem State.setLpad_reads (s : State) (v : Len) : (s.setLpad v).reads = s.reads := rfl
@[simp] theorem State.setLpad_resetCount (s : State) (v : Len) : (s.setLpad v).resetCount = s.resetCount := rfl
@[simp] theorem State.setLpad_outStamp (s : State) (v : Len) : (s.setLpad v).outStamp = s.outStamp := rfl
@[simp] theorem State.setLpad_freeTag (s : State) (v : Len) : (s.setLpad v).freeTag = s.freeTag := rfl

@[simp] theorem State.setIdx_phase (s : State) (v : SampleIndex) : (s.setIdx v).phase = s.phase := rfl
@[simp] theorem State.setIdx_lenA (s : State) (v : SampleIndex) : (s.setIdx v).lenA = s.lenA := rfl
@[simp] theorem State.setIdx_lenB (s : State) (v : SampleIndex) : (s.setIdx v).lenB = s.lenB := rfl
@[simp] theorem State.setIdx_lenOut (s : State) (v : SampleIndex) : (s.setIdx v).lenOut = s.lenOut := rfl
@[simp] theorem State.setIdx_be (s : State) (v : SampleIndex) : (s.setIdx v).be = s.be := rfl
@[simp] theorem State.setIdx_idx (s : State) (v : SampleIndex) : (s.setIdx v).idx = v := rfl
@[simp] theorem State.setIdx_lpad (s : State) (v : SampleIndex) : (s.setIdx v).lpad = s.lpad := rfl
@[simp] theorem State.setIdx_sa (s : State) (v : SampleIndex) : (s.setIdx v).sa = s.sa := rfl
@[simp] theorem State.setIdx_sb (s : State) (v : SampleIndex) : (s.setIdx v).sb = s.sb := rfl
@[simp] theorem State.setIdx_acc (s : State) (v : SampleIndex) : (s.setIdx v).acc = s.acc := rfl
@[simp] theorem State.setIdx_so (s : State) (v : SampleIndex) : (s.setIdx v).so = s.so := rfl
@[simp] theorem State.setIdx_bufA (s : State) (v : SampleIndex) : (s.setIdx v).bufA = s.bufA := rfl
@[simp] theorem State.setIdx_bufB (s : State) (v : SampleIndex) : (s.setIdx v).bufB = s.bufB := rfl
@[simp] theorem State.setIdx_bufOut (s : State) (v : SampleIndex) : (s.setIdx v).bufOut = s.bufOut := rfl
@[simp] theorem State.setIdx_padA0 (s : State) (v : SampleIndex) : (s.setIdx v).padA0 = s.padA0 := rfl
@[simp] theorem State.setIdx_padA1 (s : State) (v : SampleIndex) : (s.setIdx v).padA1 = s.padA1 := rfl
@[simp] theorem State.setIdx_padB0 (s : State) (v : SampleIndex) : (s.setIdx v).padB0 = s.padB0 := rfl
@[simp] theorem State.setIdx_padB1 (s : State) (v : SampleIndex) : (s.setIdx v).padB1 = s.padB1 := rfl
@[simp] theorem State.setIdx_maxLen (s : State) (v : SampleIndex) : (s.setIdx v).maxLen = s.maxLen := rfl
@[simp] theorem State.setIdx_pending (s : State) (v : SampleIndex) : (s.setIdx v).pending = s.pending := rfl
@[simp] theorem State.setIdx_reads (s : State) (v : SampleIndex) : (s.setIdx v).reads = s.reads := rfl
@[simp] theorem State.setIdx_resetCount (s : State) (v : SampleIndex) : (s.setIdx v).resetCount = s.resetCount := rfl
@[simp] theorem State.setIdx_outStamp (s : State) (v : SampleIndex) : (s.setIdx v).outStamp = s.outStamp := rfl
@[simp] theorem State.setIdx_freeTag (s : State) (v : SampleIndex) : (s.setIdx v).freeTag = s.freeTag := rfl

@[simp] theorem State.setAcc_phase (s : State) (v : Acc) : (s.setAcc v).phase = s.phase := rfl
@[simp] theorem State.setAcc_lenA (s : State) (v : Acc) : (s.setAcc v).lenA = s.lenA := rfl
@[simp] theorem State.setAcc_lenB (s : State) (v : Acc) : (s.setAcc v).lenB = s.lenB := rfl
@[simp] theorem State.setAcc_lenOut (s : State) (v : Acc) : (s.setAcc v).lenOut = s.lenOut := rfl
@[simp] theorem State.setAcc_be (s : State) (v : Acc) : (s.setAcc v).be = s.be := rfl
@[simp] theorem State.setAcc_idx (s : State) (v : Acc) : (s.setAcc v).idx = s.idx := rfl
@[simp] theorem State.setAcc_lpad (s : State) (v : Acc) : (s.setAcc v).lpad = s.lpad := rfl
@[simp] theorem State.setAcc_sa (s : State) (v : Acc) : (s.setAcc v).sa = s.sa := rfl
@[simp] theorem State.setAcc_sb (s : State) (v : Acc) : (s.setAcc v).sb = s.sb := rfl
@[simp] theorem State.setAcc_acc (s : State) (v : Acc) : (s.setAcc v).acc = v := rfl
@[simp] theorem State.setAcc_so (s : State) (v : Acc) : (s.setAcc v).so = s.so := rfl
@[simp] theorem State.setAcc_bufA (s : State) (v : Acc) : (s.setAcc v).bufA = s.bufA := rfl
@[simp] theorem State.setAcc_bufB (s : State) (v : Acc) : (s.setAcc v).bufB = s.bufB := rfl
@[simp] theorem State.setAcc_bufOut (s : State) (v : Acc) : (s.setAcc v).bufOut = s.bufOut := rfl
@[simp] theorem State.setAcc_padA0 (s : State) (v : Acc) : (s.setAcc v).padA0 = s.padA0 := rfl
@[simp] theorem State.setAcc_padA1 (s : State) (v : Acc) : (s.setAcc v).padA1 = s.padA1 := rfl
@[simp] theorem State.setAcc_padB0 (s : State) (v : Acc) : (s.setAcc v).padB0 = s.padB0 := rfl
@[simp] theorem State.setAcc_padB1 (s : State) (v : Acc) : (s.setAcc v).padB1 = s.padB1 := rfl
@[simp] theorem State.setAcc_maxLen (s : State) (v : Acc) : (s.setAcc v).maxLen = s.maxLen := rfl
@[simp] theorem State.setAcc_pending (s : State) (v : Acc) : (s.setAcc v).pending = s.pending := rfl
@[simp] theorem State.setAcc_reads (s : State) (v : Acc) : (s.setAcc v).reads = s.reads := rfl
@[simp] theorem State.setAcc_resetCount (s : State) (v : Acc) : (s.setAcc v).resetCount = s.resetCount := rfl
@[simp] theorem State.setAcc_outStamp (s : State) (v : Acc) : (s.setAcc v).outStamp = s.outStamp := rfl
@[simp] theorem State.setAcc_freeTag (s : State) (v : Acc) : (s.setAcc v).freeTag = s.freeTag := rfl

@[simp] theorem State.setSo_phase (s : State) (v : Sample) : (s.setSo v).phase = s.phase := rfl
@[simp] theorem State.setSo_lenA (s : State) (v : Sample) : (s.setSo v).lenA = s.lenA := rfl
@[simp] theorem State.setSo_lenB (s : State) (v : Sample) : (s.setSo v).lenB = s.lenB := rfl
@[simp] theorem State.setSo_lenOut (s : State) (v : Sample) : (s.setSo v).lenOut = s.lenOut := rfl
@[simp] theorem State.setSo_be (s : State) (v : Sample) : (s.setSo v).be = s.be := rfl
@[simp] theorem State.setSo_idx (s : State) (v : Sample) : (s.setSo v).idx = s.idx := rfl
@[simp] theorem State.setSo_lpad (s : State) (v : Sample) : (s.setSo v).lpad = s.lpad := rfl
@[simp] theorem State.setSo_sa (s : State) (v : Sample) : (s.setSo v).sa = s.sa := rfl
@[simp] theorem State.setSo_sb (s : State) (v : Sample) : (s.setSo v).sb = s.sb := rfl
@[simp] theorem State.setSo_acc (s : State) (v : Sample) : (s.setSo v).acc = s.acc := rfl
@[simp] theorem State.setSo_so (s : State) (v : Sample) : (s.setSo v).so = v := rfl
@[simp] theorem State.setSo_bufA (s : State) (v : Sample) : (s.setSo v).bufA = s.bufA := rfl
@[simp] theorem State.setSo_bufB (s : State) (v : Sample) : (s.setSo v).bufB = s.bufB := rfl
@[simp] theorem State.setSo_bufOut (s : State) (v : Sample) : (s.setSo v).bufOut = s.bufOut := rfl
@[simp] theorem State.setSo_padA0 (s : State) (v : Sample) : (s.setSo v).padA0 = s.padA0 := rfl
@[simp] theorem State.setSo_padA1 (s : State) (v : Sample) : (s.setSo v).padA1 = s.padA1 := rfl
@[simp] theorem State.setSo_padB0 (s : State) (v : Sample) : (s.setSo v).padB0 = s.padB0 := rfl
@[simp] theorem State.setSo_padB1 (s : State) (v : Sample) : (s.setSo v).padB1 = s.padB1 := rfl
@[simp] theorem State.setSo_maxLen (s : State) (v : Sample) : (s.setSo v).maxLen = s.maxLen := rfl
@[simp] theorem State.setSo_pending (s : State) (v : Sample) : (s.setSo v).pending = s.pending := rfl
@[simp] theorem State.setSo_reads (s : State) (v : Sample) : (s.setSo v).reads = s.reads := rfl
@[simp] theorem State.setSo_resetCount (s : State) (v : Sample) : (s.setSo v).resetCount = s.resetCount := rfl
@[simp] theorem State.setSo_outStamp (s : State) (v : Sample) : (s.setSo v).outStamp = s.outStamp := rfl
@[simp] theorem State.setSo_freeTag (s : State) (v : Sample) : (s.setSo v).freeTag = s.freeTag := rfl

@[simp] theorem State.setPending_phase (s : State) (v : List Turn) : (s.setPending v).phase = s.phase := rfl
@[simp] theorem State.setPending_lenA (s : State) (v : List Turn) : (s.setPending v).lenA = s.lenA := rfl
@[simp] theorem State.setPending_lenB (s : State) (v : List Turn) : (s.setPending v).lenB = s.lenB := rfl
@[simp] theorem State.setPending_lenOut (s : State) (v : List Turn) : (s.setPending v).lenOut = s.lenOut := rfl
@[simp] theorem State.setPending_be (s : State) (v : List Turn) : (s.setPending v).be = s.be := rfl
@[simp] theorem State.setPending_idx (s : State) (v : List Turn) : (s.setPending v).idx = s.idx := rfl
@[simp] theorem State.setPending_lpad (s : State) (v : List Turn) : (s.setPending v).lpad = s.lpad := rfl
@[simp] theorem State.setPending_sa (s : State) (v : List Turn) : (s.setPending v).sa = s.sa := rfl
@[simp] theorem State.setPending_sb (s : State) (v : List Turn) : (s.setPending v).sb = s.sb := rfl
@[simp] theorem State.setPending_acc (s : State) (v : List Turn) : (s.setPending v).acc = s.acc := rfl
@[simp] theorem State.setPending_so (s : State) (v : List Turn) : (s.setPending v).so = s.so := rfl
@[simp] theorem State.setPending_bufA (s : State) (v : List Turn) : (s.setPending v).bufA = s.bufA := rfl
@[simp] theorem State.setPending_bufB (s : State) (v : List Turn) : (s.setPending v).bufB = s.bufB := rfl
@[simp] theorem State.setPending_bufOut (s : State) (v : List Turn) : (s.setPending v).bufOut = s.bufOut := rfl
@[simp] theorem State.setPending_padA0 (s : State) (v : List Turn) : (s.setPending v).padA0 = s.padA0 := rfl
@[simp] theorem State.setPending_padA1 (s : State) (v : List Turn) : (s.setPending v).padA1 = s.padA1 := rfl
@[simp] theorem State.setPending_padB0 (s : State) (v : List Turn) : (s.setPending v).padB0 = s.padB0 := rfl
@[simp] theorem State.setPending_padB1 (s : State) (v : List Turn) : (s.setPending v).padB1 = s.padB1 := rfl
@[simp] theorem State.setPending_maxLen (s : State) (v : List Turn) : (s.setPending v).maxLen = s.maxLen := rfl
@[simp] theorem State.setPending_pending (s : State) (v : List Turn) : (s.setPending v).pending = v := rfl
@[simp] theorem State.setPending_reads (s : State) (v : List Turn) : (s.setPending v).reads = s.reads := rfl
@[simp] theorem State.setPending_resetCount (s : State) (v : List Turn) : (s.setPending v).resetCount = s.resetCount := rfl
@[simp] theorem State.setPending_outStamp (s : State) (v : List Turn) : (s.setPending v).outStamp = s.outStamp := rfl
@[simp] theorem State.setPending_freeTag (s : State) (v : List Turn) : (s.setPending v).freeTag = s.freeTag := rfl

@[simp] theorem State.pushRead_phase (s : State) (v : ReadValue) : (s.pushRead v).phase = s.phase := rfl
@[simp] theorem State.pushRead_lenA (s : State) (v : ReadValue) : (s.pushRead v).lenA = s.lenA := rfl
@[simp] theorem State.pushRead_lenB (s : State) (v : ReadValue) : (s.pushRead v).lenB = s.lenB := rfl
@[simp] theorem State.pushRead_lenOut (s : State) (v : ReadValue) : (s.pushRead v).lenOut = s.lenOut := rfl
@[simp] theorem State.pushRead_be (s : State) (v : ReadValue) : (s.pushRead v).be = s.be := rfl
@[simp] theorem State.pushRead_idx (s : State) (v : ReadValue) : (s.pushRead v).idx = s.idx := rfl
@[simp] theorem State.pushRead_lpad (s : State) (v : ReadValue) : (s.pushRead v).lpad = s.lpad := rfl
@[simp] theorem State.pushRead_sa (s : State) (v : ReadValue) : (s.pushRead v).sa = s.sa := rfl
@[simp] theorem State.pushRead_sb (s : State) (v : ReadValue) : (s.pushRead v).sb = s.sb := rfl
@[simp] theorem State.pushRead_acc (s : State) (v : ReadValue) : (s.pushRead v).acc = s.acc := rfl
@[simp] theorem State.pushRead_so (s : State) (v : ReadValue) : (s.pushRead v).so = s.so := rfl
@[simp] theorem State.pushRead_bufA (s : State) (v : ReadValue) : (s.pushRead v).bufA = s.bufA := rfl
@[simp] theorem State.pushRead_bufB (s : State) (v : ReadValue) : (s.pushRead v).bufB = s.bufB := rfl
@[simp] theorem State.pushRead_bufOut (s : State) (v : ReadValue) : (s.pushRead v).bufOut = s.bufOut := rfl
@[simp] theorem State.pushRead_padA0 (s : State) (v : ReadValue) : (s.pushRead v).padA0 = s.padA0 := rfl
@[simp] theorem State.pushRead_padA1 (s : State) (v : ReadValue) : (s.pushRead v).padA1 = s.padA1 := rfl
@[simp] theorem State.pushRead_padB0 (s : State) (v : ReadValue) : (s.pushRead v).padB0 = s.padB0 := rfl
@[simp] theorem State.pushRead_padB1 (s : State) (v : ReadValue) : (s.pushRead v).padB1 = s.padB1 := rfl
@[simp] theorem State.pushRead_maxLen (s : State) (v : ReadValue) : (s.pushRead v).maxLen = s.maxLen := rfl
@[simp] theorem State.pushRead_pending (s : State) (v : ReadValue) : (s.pushRead v).pending = s.pending := rfl
@[simp] theorem State.pushRead_reads (s : State) (v : ReadValue) : (s.pushRead v).reads = s.reads ++ [v] := rfl
@[simp] theorem State.pushRead_resetCount (s : State) (v : ReadValue) : (s.pushRead v).resetCount = s.resetCount := rfl
@[simp] theorem State.pushRead_outStamp (s : State) (v : ReadValue) : (s.pushRead v).outStamp = s.outStamp := rfl
@[simp] theorem State.pushRead_freeTag (s : State) (v : ReadValue) : (s.pushRead v).freeTag = s.freeTag := rfl

@[simp] theorem State.bumpStamp_phase (s : State) : s.bumpStamp.phase = s.phase := rfl
@[simp] theorem State.bumpStamp_lenA (s : State) : s.bumpStamp.lenA = s.lenA := rfl
@[simp] theorem State.bumpStamp_lenB (s : State) : s.bumpStamp.lenB = s.lenB := rfl
@[simp] theorem State.bumpStamp_lenOut (s : State) : s.bumpStamp.lenOut = s.lenOut := rfl
@[simp] theorem State.bumpStamp_be (s : State) : s.bumpStamp.be = s.be := rfl
@[simp] theorem State.bumpStamp_idx (s : State) : s.bumpStamp.idx = s.idx := rfl
@[simp] theorem State.bumpStamp_lpad (s : State) : s.bumpStamp.lpad = s.lpad := rfl
@[simp] theorem State.bumpStamp_sa (s : State) : s.bumpStamp.sa = s.sa := rfl
@[simp] theorem State.bumpStamp_sb (s : State) : s.bumpStamp.sb = s.sb := rfl
@[simp] theorem State.bumpStamp_acc (s : State) : s.bumpStamp.acc = s.acc := rfl
@[simp] theorem State.bumpStamp_so (s : State) : s.bumpStamp.so = s.so := rfl
@[simp] theorem State.bumpStamp_bufA (s : State) : s.bumpStamp.bufA = s.bufA := rfl
@[simp] theorem State.bumpStamp_bufB (s : State) : s.bumpStamp.bufB = s.bufB := rfl
@[simp] theorem State.bumpStamp_bufOut (s : State) : s.bumpStamp.bufOut = s.bufOut := rfl
@[simp] theorem State.bumpStamp_padA0 (s : State) : s.bumpStamp.padA0 = s.padA0 := rfl
@[simp] theorem State.bumpStamp_padA1 (s : State) : s.bumpStamp.padA1 = s.padA1 := rfl
@[simp] theorem State.bumpStamp_padB0 (s : State) : s.bumpStamp.padB0 = s.padB0 := rfl
@[simp] theorem State.bumpStamp_padB1 (s : State) : s.bumpStamp.padB1 = s.padB1 := rfl
@[simp] theorem State.bumpStamp_maxLen (s : State) : s.bumpStamp.maxLen = s.maxLen := rfl
@[simp] theorem State.bumpStamp_pending (s : State) : s.bumpStamp.pending = s.pending := rfl
@[simp] theorem State.bumpStamp_reads (s : State) : s.bumpStamp.reads = s.reads := rfl
@[simp] theorem State.bumpStamp_resetCount (s : State) : s.bumpStamp.resetCount = s.resetCount := rfl
@[simp] theorem State.bumpStamp_outStamp (s : State) : s.bumpStamp.outStamp = s.outStamp + 1 := rfl
@[simp] theorem State.bumpStamp_freeTag (s : State) : s.bumpStamp.freeTag = s.freeTag := rfl

@[simp] theorem State.setLen_phase (s : State) (lane : Lane) (v : Len) : (s.setLen lane v).phase = s.phase := by cases lane <;> rfl
@[simp] theorem State.setLen_lenOut (s : State) (lane : Lane) (v : Len) : (s.setLen lane v).lenOut = s.lenOut := by cases lane <;> rfl
@[simp] theorem State.setLen_be (s : State) (lane : Lane) (v : Len) : (s.setLen lane v).be = s.be := by cases lane <;> rfl
@[simp] theorem State.setLen_idx (s : State) (lane : Lane) (v : Len) : (s.setLen lane v).idx = s.idx := by cases lane <;> rfl
@[simp] theorem State.setLen_lpad (s : State) (lane : Lane) (v : Len) : (s.setLen lane v).lpad = s.lpad := by cases lane <;> rfl
@[simp] theorem State.setLen_sa (s : State) (lane : Lane) (v : Len) : (s.setLen lane v).sa = s.sa := by cases lane <;> rfl
@[simp] theorem State.setLen_sb (s : State) (lane : Lane) (v : Len) : (s.setLen lane v).sb = s.sb := by cases lane <;> rfl
@[simp] theorem State.setLen_acc (s : State) (lane : Lane) (v : Len) : (s.setLen lane v).acc = s.acc := by cases lane <;> rfl
@[simp] theorem State.setLen_so (s : State) (lane : Lane) (v : Len) : (s.setLen lane v).so = s.so := by cases lane <;> rfl
@[simp] theorem State.setLen_bufA (s : State) (lane : Lane) (v : Len) : (s.setLen lane v).bufA = s.bufA := by cases lane <;> rfl
@[simp] theorem State.setLen_bufB (s : State) (lane : Lane) (v : Len) : (s.setLen lane v).bufB = s.bufB := by cases lane <;> rfl
@[simp] theorem State.setLen_bufOut (s : State) (lane : Lane) (v : Len) : (s.setLen lane v).bufOut = s.bufOut := by cases lane <;> rfl
@[simp] theorem State.setLen_padA0 (s : State) (lane : Lane) (v : Len) : (s.setLen lane v).padA0 = s.padA0 := by cases lane <;> rfl
@[simp] theorem State.setLen_padA1 (s : State) (lane : Lane) (v : Len) : (s.setLen lane v).padA1 = s.padA1 := by cases lane <;> rfl
@[simp] theorem State.setLen_padB0 (s : State) (lane : Lane) (v : Len) : (s.setLen lane v).padB0 = s.padB0 := by cases lane <;> rfl
@[simp] theorem State.setLen_padB1 (s : State) (lane : Lane) (v : Len) : (s.setLen lane v).padB1 = s.padB1 := by cases lane <;> rfl
@[simp] theorem State.setLen_maxLen (s : State) (lane : Lane) (v : Len) : (s.setLen lane v).maxLen = s.maxLen := by cases lane <;> rfl
@[simp] theorem State.setLen_pending (s : State) (lane : Lane) (v : Len) : (s.setLen lane v).pending = s.pending := by cases lane <;> rfl
@[simp] theorem State.setLen_reads (s : State) (lane : Lane) (v : Len) : (s.setLen lane v).reads = s.reads := by cases lane <;> rfl
@[simp] theorem State.setLen_resetCount (s : State) (lane : Lane) (v : Len) : (s.setLen lane v).resetCount = s.resetCount := by cases lane <;> rfl
@[simp] theorem State.setLen_outStamp (s : State) (lane : Lane) (v : Len) : (s.setLen lane v).outStamp = s.outStamp := by cases lane <;> rfl
@[simp] theorem State.setLen_freeTag (s : State) (lane : Lane) (v : Len) : (s.setLen lane v).freeTag = s.freeTag := by cases lane <;> rfl
@[simp] theorem State.setLen_a_lenA (s : State) (v : Len) : (s.setLen .a v).lenA = v := rfl
@[simp] theorem State.setLen_a_lenB (s : State) (v : Len) : (s.setLen .a v).lenB = s.lenB := rfl
@[simp] theorem State.setLen_b_lenA (s : State) (v : Len) : (s.setLen .b v).lenA = s.lenA := rfl
@[simp] theorem State.setLen_b_lenB (s : State) (v : Len) : (s.setLen .b v).lenB = v := rfl

@[simp] theorem State.setSample_phase (s : State) (lane : Lane) (v : Sample) : (s.setSample lane v).phase = s.phase := by cases lane <;> rfl
@[simp] theorem State.setSample_lenA (s : State) (lane : Lane) (v : Sample) : (s.setSample lane v).lenA = s.lenA := by cases lane <;> rfl
@[simp] theorem State.setSample_lenB (s : State) (lane : Lane) (v : Sample) : (s.setSample lane v).lenB = s.lenB := by cases lane <;> rfl
@[simp] theorem State.setSample_lenOut (s : State) (lane : Lane) (v : Sample) : (s.setSample lane v).lenOut = s.lenOut := by cases lane <;> rfl
@[simp] theorem State.setSample_be (s : State) (lane : Lane) (v : Sample) : (s.setSample lane v).be = s.be := by cases lane <;> rfl
@[simp] theorem State.setSample_idx (s : State) (lane : Lane) (v : Sample) : (s.setSample lane v).idx = s.idx := by cases lane <;> rfl
@[simp] theorem State.setSample_lpad (s : State) (lane : Lane) (v : Sample) : (s.setSample lane v).lpad = s.lpad := by cases lane <;> rfl
@[simp] theorem State.setSample_acc (s : State) (lane : Lane) (v : Sample) : (s.setSample lane v).acc = s.acc := by cases lane <;> rfl
@[simp] theorem State.setSample_so (s : State) (lane : Lane) (v : Sample) : (s.setSample lane v).so = s.so := by cases lane <;> rfl
@[simp] theorem State.setSample_bufA (s : State) (lane : Lane) (v : Sample) : (s.setSample lane v).bufA = s.bufA := by cases lane <;> rfl
@[simp] theorem State.setSample_bufB (s : State) (lane : Lane) (v : Sample) : (s.setSample lane v).bufB = s.bufB := by cases lane <;> rfl
@[simp] theorem State.setSample_bufOut (s : State) (lane : Lane) (v : Sample) : (s.setSample lane v).bufOut = s.bufOut := by cases lane <;> rfl
@[simp] theorem State.setSample_padA0 (s : State) (lane : Lane) (v : Sample) : (s.setSample lane v).padA0 = s.padA0 := by cases lane <;> rfl
@[simp] theorem State.setSample_padA1 (s : State) (lane : Lane) (v : Sample) : (s.setSample lane v).padA1 = s.padA1 := by cases lane <;> rfl
@[simp] theorem State.setSample_padB0 (s : State) (lane : Lane) (v : Sample) : (s.setSample lane v).padB0 = s.padB0 := by cases lane <;> rfl
@[simp] theorem State.setSample_padB1 (s : State) (lane : Lane) (v : Sample) : (s.setSample lane v).padB1 = s.padB1 := by cases lane <;> rfl
@[simp] theorem State.setSample_maxLen (s : State) (lane : Lane) (v : Sample) : (s.setSample lane v).maxLen = s.maxLen := by cases lane <;> rfl
@[simp] theorem State.setSample_pending (s : State) (lane : Lane) (v : Sample) : (s.setSample lane v).pending = s.pending := by cases lane <;> rfl
@[simp] theorem State.setSample_reads (s : State) (lane : Lane) (v : Sample) : (s.setSample lane v).reads = s.reads := by cases lane <;> rfl
@[simp] theorem State.setSample_resetCount (s : State) (lane : Lane) (v : Sample) : (s.setSample lane v).resetCount = s.resetCount := by cases lane <;> rfl
@[simp] theorem State.setSample_outStamp (s : State) (lane : Lane) (v : Sample) : (s.setSample lane v).outStamp = s.outStamp := by cases lane <;> rfl
@[simp] theorem State.setSample_freeTag (s : State) (lane : Lane) (v : Sample) : (s.setSample lane v).freeTag = s.freeTag := by cases lane <;> rfl
@[simp] theorem State.setSample_a_sa (s : State) (v : Sample) : (s.setSample .a v).sa = v := rfl
@[simp] theorem State.setSample_a_sb (s : State) (v : Sample) : (s.setSample .a v).sb = s.sb := rfl
@[simp] theorem State.setSample_b_sa (s : State) (v : Sample) : (s.setSample .b v).sa = s.sa := rfl
@[simp] theorem State.setSample_b_sb (s : State) (v : Sample) : (s.setSample .b v).sb = v := rfl

@[simp] theorem State.setPad_phase (s : State) (lane : Lane) (second : Bool) (v : Byte) : (s.setPad lane second v).phase = s.phase := by cases lane <;> cases second <;> rfl
@[simp] theorem State.setPad_lenA (s : State) (lane : Lane) (second : Bool) (v : Byte) : (s.setPad lane second v).lenA = s.lenA := by cases lane <;> cases second <;> rfl
@[simp] theorem State.setPad_lenB (s : State) (lane : Lane) (second : Bool) (v : Byte) : (s.setPad lane second v).lenB = s.lenB := by cases lane <;> cases second <;> rfl
@[simp] theorem State.setPad_lenOut (s : State) (lane : Lane) (second : Bool) (v : Byte) : (s.setPad lane second v).lenOut = s.lenOut := by cases lane <;> cases second <;> rfl
@[simp] theorem State.setPad_be (s : State) (lane : Lane) (second : Bool) (v : Byte) : (s.setPad lane second v).be = s.be := by cases lane <;> cases second <;> rfl
@[simp] theorem State.setPad_idx (s : State) (lane : Lane) (second : Bool) (v : Byte) : (s.setPad lane second v).idx = s.idx := by cases lane <;> cases second <;> rfl
@[simp] theorem State.setPad_lpad (s : State) (lane : Lane) (second : Bool) (v : Byte) : (s.setPad lane second v).lpad = s.lpad := by cases lane <;> cases second <;> rfl
@[simp] theorem State.setPad_sa (s : State) (lane : Lane) (second : Bool) (v : Byte) : (s.setPad lane second v).sa = s.sa := by cases lane <;> cases second <;> rfl
@[simp] theorem State.setPad_sb (s : State) (lane : Lane) (second : Bool) (v : Byte) : (s.setPad lane second v).sb = s.sb := by cases lane <;> cases second <;> rfl
@[simp] theorem State.setPad_acc (s : State) (lane : Lane) (second : Bool) (v : Byte) : (s.setPad lane second v).acc = s.acc := by cases lane <;> cases second <;> rfl
@[simp] theorem State.setPad_so (s : State) (lane : Lane) (second : Bool) (v : Byte) : (s.setPad lane second v).so = s.so := by cases lane <;> cases second <;> rfl
@[simp] theorem State.setPad_bufA (s : State) (lane : Lane) (second : Bool) (v : Byte) : (s.setPad lane second v).bufA = s.bufA := by cases lane <;> cases second <;> rfl
@[simp] theorem State.setPad_bufB (s : State) (lane : Lane) (second : Bool) (v : Byte) : (s.setPad lane second v).bufB = s.bufB := by cases lane <;> cases second <;> rfl
@[simp] theorem State.setPad_bufOut (s : State) (lane : Lane) (second : Bool) (v : Byte) : (s.setPad lane second v).bufOut = s.bufOut := by cases lane <;> cases second <;> rfl
@[simp] theorem State.setPad_maxLen (s : State) (lane : Lane) (second : Bool) (v : Byte) : (s.setPad lane second v).maxLen = s.maxLen := by cases lane <;> cases second <;> rfl
@[simp] theorem State.setPad_pending (s : State) (lane : Lane) (second : Bool) (v : Byte) : (s.setPad lane second v).pending = s.pending := by cases lane <;> cases second <;> rfl
@[simp] theorem State.setPad_reads (s : State) (lane : Lane) (second : Bool) (v : Byte) : (s.setPad lane second v).reads = s.reads := by cases lane <;> cases second <;> rfl
@[simp] theorem State.setPad_resetCount (s : State) (lane : Lane) (second : Bool) (v : Byte) : (s.setPad lane second v).resetCount = s.resetCount := by cases lane <;> cases second <;> rfl
@[simp] theorem State.setPad_outStamp (s : State) (lane : Lane) (second : Bool) (v : Byte) : (s.setPad lane second v).outStamp = s.outStamp := by cases lane <;> cases second <;> rfl
@[simp] theorem State.setPad_freeTag (s : State) (lane : Lane) (second : Bool) (v : Byte) : (s.setPad lane second v).freeTag = s.freeTag := by cases lane <;> cases second <;> rfl
@[simp] theorem State.setPad_a_false_padA0 (s : State) (v : Byte) : (s.setPad .a false v).padA0 = v := rfl
@[simp] theorem State.setPad_a_false_padA1 (s : State) (v : Byte) : (s.setPad .a false v).padA1 = s.padA1 := rfl
@[simp] theorem State.setPad_a_false_padB0 (s : State) (v : Byte) : (s.setPad .a false v).padB0 = s.padB0 := rfl
@[simp] theorem State.setPad_a_false_padB1 (s : State) (v : Byte) : (s.setPad .a false v).padB1 = s.padB1 := rfl
@[simp] theorem State.setPad_a_true_padA0 (s : State) (v : Byte) : (s.setPad .a true v).padA0 = s.padA0 := rfl
@[simp] theorem State.setPad_a_true_padA1 (s : State) (v : Byte) : (s.setPad .a true v).padA1 = v := rfl
@[simp] theorem State.setPad_a_true_padB0 (s : State) (v : Byte) : (s.setPad .a true v).padB0 = s.padB0 := rfl
@[simp] theorem State.setPad_a_true_padB1 (s : State) (v : Byte) : (s.setPad .a true v).padB1 = s.padB1 := rfl
@[simp] theorem State.setPad_b_false_padA0 (s : State) (v : Byte) : (s.setPad .b false v).padA0 = s.padA0 := rfl
@[simp] theorem State.setPad_b_false_padA1 (s : State) (v : Byte) : (s.setPad .b false v).padA1 = s.padA1 := rfl
@[simp] theorem State.setPad_b_false_padB0 (s : State) (v : Byte) : (s.setPad .b false v).padB0 = v := rfl
@[simp] theorem State.setPad_b_false_padB1 (s : State) (v : Byte) : (s.setPad .b false v).padB1 = s.padB1 := rfl
@[simp] theorem State.setPad_b_true_padA0 (s : State) (v : Byte) : (s.setPad .b true v).padA0 = s.padA0 := rfl
@[simp] theorem State.setPad_b_true_padA1 (s : State) (v : Byte) : (s.setPad .b true v).padA1 = s.padA1 := rfl
@[simp] theorem State.setPad_b_true_padB0 (s : State) (v : Byte) : (s.setPad .b true v).padB0 = s.padB0 := rfl
@[simp] theorem State.setPad_b_true_padB1 (s : State) (v : Byte) : (s.setPad .b true v).padB1 = v := rfl

@[simp] theorem State.setBuf_phase (s : State) (space : Space) (v : Memory) : (s.setBuf space v).phase = s.phase := by cases space <;> rfl
@[simp] theorem State.setBuf_lenA (s : State) (space : Space) (v : Memory) : (s.setBuf space v).lenA = s.lenA := by cases space <;> rfl
@[simp] theorem State.setBuf_lenB (s : State) (space : Space) (v : Memory) : (s.setBuf space v).lenB = s.lenB := by cases space <;> rfl
@[simp] theorem State.setBuf_lenOut (s : State) (space : Space) (v : Memory) : (s.setBuf space v).lenOut = s.lenOut := by cases space <;> rfl
@[simp] theorem State.setBuf_be (s : State) (space : Space) (v : Memory) : (s.setBuf space v).be = s.be := by cases space <;> rfl
@[simp] theorem State.setBuf_idx (s : State) (space : Space) (v : Memory) : (s.setBuf space v).idx = s.idx := by cases space <;> rfl
@[simp] theorem State.setBuf_lpad (s : State) (space : Space) (v : Memory) : (s.setBuf space v).lpad = s.lpad := by cases space <;> rfl
@[simp] theorem State.setBuf_sa (s : State) (space : Space) (v : Memory) : (s.setBuf space v).sa = s.sa := by cases space <;> rfl
@[simp] theorem State.setBuf_sb (s : State) (space : Space) (v : Memory) : (s.setBuf space v).sb = s.sb := by cases space <;> rfl
@[simp] theorem State.setBuf_acc (s : State) (space : Space) (v : Memory) : (s.setBuf space v).acc = s.acc := by cases space <;> rfl
@[simp] theorem State.setBuf_so (s : State) (space : Space) (v : Memory) : (s.setBuf space v).so = s.so := by cases space <;> rfl
@[simp] theorem State.setBuf_padA0 (s : State) (space : Space) (v : Memory) : (s.setBuf space v).padA0 = s.padA0 := by cases space <;> rfl
@[simp] theorem State.setBuf_padA1 (s : State) (space : Space) (v : Memory) : (s.setBuf space v).padA1 = s.padA1 := by cases space <;> rfl
@[simp] theorem State.setBuf_padB0 (s : State) (space : Space) (v : Memory) : (s.setBuf space v).padB0 = s.padB0 := by cases space <;> rfl
@[simp] theorem State.setBuf_padB1 (s : State) (space : Space) (v : Memory) : (s.setBuf space v).padB1 = s.padB1 := by cases space <;> rfl
@[simp] theorem State.setBuf_maxLen (s : State) (space : Space) (v : Memory) : (s.setBuf space v).maxLen = s.maxLen := by cases space <;> rfl
@[simp] theorem State.setBuf_pending (s : State) (space : Space) (v : Memory) : (s.setBuf space v).pending = s.pending := by cases space <;> rfl
@[simp] theorem State.setBuf_reads (s : State) (space : Space) (v : Memory) : (s.setBuf space v).reads = s.reads := by cases space <;> rfl
@[simp] theorem State.setBuf_resetCount (s : State) (space : Space) (v : Memory) : (s.setBuf space v).resetCount = s.resetCount := by cases space <;> rfl
@[simp] theorem State.setBuf_outStamp (s : State) (space : Space) (v : Memory) : (s.setBuf space v).outStamp = s.outStamp := by cases space <;> rfl
@[simp] theorem State.setBuf_freeTag (s : State) (space : Space) (v : Memory) : (s.setBuf space v).freeTag = s.freeTag := by cases space <;> rfl
@[simp] theorem State.setBuf_a_bufA (s : State) (v : Memory) : (s.setBuf .a v).bufA = v := rfl
@[simp] theorem State.setBuf_a_bufB (s : State) (v : Memory) : (s.setBuf .a v).bufB = s.bufB := rfl
@[simp] theorem State.setBuf_a_bufOut (s : State) (v : Memory) : (s.setBuf .a v).bufOut = s.bufOut := rfl
@[simp] theorem State.setBuf_b_bufA (s : State) (v : Memory) : (s.setBuf .b v).bufA = s.bufA := rfl
@[simp] theorem State.setBuf_b_bufB (s : State) (v : Memory) : (s.setBuf .b v).bufB = v := rfl
@[simp] theorem State.setBuf_b_bufOut (s : State) (v : Memory) : (s.setBuf .b v).bufOut = s.bufOut := rfl
@[simp] theorem State.setBuf_out_bufA (s : State) (v : Memory) : (s.setBuf .out v).bufA = s.bufA := rfl
@[simp] theorem State.setBuf_out_bufB (s : State) (v : Memory) : (s.setBuf .out v).bufB = s.bufB := rfl
@[simp] theorem State.setBuf_out_bufOut (s : State) (v : Memory) : (s.setBuf .out v).bufOut = v := rfl

end Sys2Proof.Machine
end

