-- ==== Sys2Proof/Laws/Memory.lean ====
section
/-! SUPPORT. The laws of the buffer memories: a read after a write, and the canonical form. -/

namespace Sys2Proof.Machine

theorem memFind_memInsert_same (m : Memory) (i : Nat) (v : Byte) : memFind (memInsert m i v) i = some v := by
  induction m with
  | nil => simp [memInsert, memFind]
  | cons c m ih =>
    obtain ⟨k, u⟩ := c
    simp only [memInsert]
    split_ifs with h1 h2
    · simp [memFind]
    · simp [memFind]
    · simp [memFind, ih, Ne.symm h2]

theorem memFind_memInsert_other (m : Memory) {i j : Nat} (v : Byte) (h : j ≠ i) :
    memFind (memInsert m i v) j = memFind m j := by
  induction m with
  | nil => simp [memInsert, memFind, Ne.symm h]
  | cons c m ih =>
    obtain ⟨k, u⟩ := c
    simp only [memInsert]
    split_ifs with h1 h2
    · simp [memFind, Ne.symm h]
    · subst h2
      simp [memFind, Ne.symm h]
    · simp [memFind, ih]

/-- Every listed index after a write is the written one or was listed before. -/
theorem mem_memInsert {m : Memory} {i : Nat} {v : Byte} {c : Host.Cell} (h : c ∈ memInsert m i v) :
    c.1 = i ∨ c ∈ m := by
  induction m with
  | nil => simp_all [memInsert]
  | cons d m ih =>
    obtain ⟨k, u⟩ := d
    simp only [memInsert] at h
    split_ifs at h with h1 h2
    · rcases List.mem_cons.mp h with rfl | h'
      · exact .inl rfl
      · exact .inr h'
    · rcases List.mem_cons.mp h with rfl | h'
      · exact .inl rfl
      · exact .inr (List.mem_cons_of_mem _ h')
    · rcases List.mem_cons.mp h with rfl | h'
      · exact .inr List.mem_cons_self
      · exact (ih h').imp_right (List.mem_cons_of_mem _)

/-- A write keeps the canonical form. -/
theorem wf_memInsert {m : Memory} (i : Nat) (v : Byte) (h : Memory.wf m = true) :
    Memory.wf (memInsert m i v) = true := by
  induction m with
  | nil => simp [memInsert, Memory.wf]
  | cons c m ih =>
    obtain ⟨k, u⟩ := c
    have hc := h
    simp only [Memory.wf, Bool.and_eq_true, List.all_eq_true, decide_eq_true_eq] at hc
    obtain ⟨hk, hm⟩ := hc
    simp only [memInsert]
    split_ifs with h1 h2
    · simp only [Memory.wf, Bool.and_eq_true, List.all_eq_true, decide_eq_true_eq]
      refine ⟨fun c hc => ?_, hk, hm⟩
      rcases List.mem_cons.mp hc with rfl | hc'
      · exact h1
      · exact h1.trans (hk c hc')
    · subst h2
      simp only [Memory.wf, Bool.and_eq_true, List.all_eq_true, decide_eq_true_eq]
      exact ⟨hk, hm⟩
    · simp only [Memory.wf, Bool.and_eq_true, List.all_eq_true, decide_eq_true_eq]
      refine ⟨fun c hc => ?_, ih hm⟩
      rcases mem_memInsert hc with h' | h'
      · omega
      · exact hk c h'

@[simp] theorem buf_setBuf_same (s : State) (space : Space) (m : Memory) : (s.setBuf space m).buf space = m := by
  cases space <;> rfl

theorem buf_setBuf_other (s : State) {sp sp' : Space} (m : Memory) (h : sp' ≠ sp) :
    (s.setBuf sp m).buf sp' = s.buf sp' := by
  cases sp <;> cases sp' <;> first | rfl | exact absurd rfl h

/-- A read sees only the memory of its space, the instance and the reset it belongs to. -/
theorem readByte_congr {s t : State} {sp : Space} (hb : t.buf sp = s.buf sp) (hf : t.freeTag = s.freeTag)
    (hr : t.resetCount = s.resetCount) (i : Nat) : readByte t sp i = readByte s sp i := by
  simp [readByte, hb, hf, hr]

/-- A padded byte depends on the lane's length and buffer alone. -/
theorem padByte_congr {s t : State} {lane : Lane} (hl : t.laneLen lane = s.laneLen lane)
    (hb : t.buf lane.space = s.buf lane.space) (hf : t.freeTag = s.freeTag) (hr : t.resetCount = s.resetCount)
    (j : Nat) : padByte t lane j = padByte s lane j := by
  simp [padByte, hl, readByte_congr hb hf hr]

/-- Whether a byte of a lane's padded input has been written depends on the lane's length and buffer alone. -/
theorem byteWritten_congr {s t : State} {lane : Lane} (hl : t.laneLen lane = s.laneLen lane)
    (hb : t.buf lane.space = s.buf lane.space) (j : Nat) : byteWritten t lane j = byteWritten s lane j := by
  unfold byteWritten
  rw [hl, hb]

/-- Whether a sample's input bytes have been written depends on the lengths and the input buffers alone. -/
theorem sampleWritten_congr {s t : State} (ha : t.lenA = s.lenA) (hb : t.lenB = s.lenB) (ma : t.bufA = s.bufA)
    (mb : t.bufB = s.bufB) (i : Nat) : sampleWritten t i = sampleWritten s i := by
  have la : ∀ j, byteWritten t .a j = byteWritten s .a j := byteWritten_congr ha ma
  have lb : ∀ j, byteWritten t .b j = byteWritten s .b j := byteWritten_congr hb mb
  simp only [sampleWritten, la, lb]

theorem readByte_memWrite_same (s : State) (sp : Space) (i : Nat) (v : Byte) :
    readByte (memWrite s sp i v) sp i = v := by
  simp [readByte, memWrite, memFind_memInsert_same]

theorem readByte_memWrite_other (s : State) (sp : Space) {i j : Nat} (v : Byte) (h : j ≠ i) :
    readByte (memWrite s sp i v) sp j = readByte s sp j := by
  simp [readByte, memWrite, memFind_memInsert_other _ _ h]

/-- The three spaces do not alias. -/
theorem readByte_memWrite_space (s : State) {sp sp' : Space} (i j : Nat) (v : Byte) (h : sp' ≠ sp) :
    readByte (memWrite s sp i v) sp' j = readByte s sp' j :=
  readByte_congr (buf_setBuf_other s _ h) (by simp) (by simp) j

/-- The unwritten reset memory is in canonical form. -/
theorem reset_buf_wf (sp : Space) : Memory.wf (State.reset.buf sp) = true := by
  cases sp <;> rfl

end Sys2Proof.Machine
end

