-- ==== Sys2Proof/Laws/Ops.lean ====
section
/-! SUPPORT. What each shared operation can do, said once. -/

namespace Sys2Proof.Machine

@[simp] theorem andThen_next (s : State) (f : State → Host.Outcome State Fault Refusal) :
    andThen (.next s) f = f s := rfl

/-- Two transitions in a row answer a state exactly when both do. -/
theorem andThen_eq_next {o : Host.Outcome State Fault Refusal} {f : State → Host.Outcome State Fault Refusal}
    {t : State} : andThen o f = .next t ↔ ∃ u, o = .next u ∧ f u = .next t := by
  cases o <;> simp [andThen]

/-- Two transitions in a row fault exactly when the first does, or the second from the state between. -/
theorem andThen_eq_fault {o : Host.Outcome State Fault Refusal} {f : State → Host.Outcome State Fault Refusal}
    {r : Fault} : andThen o f = .fault r ↔ o = .fault r ∨ ∃ u, o = .next u ∧ f u = .fault r := by
  cases o <;> simp [andThen]

@[simp] theorem laneLen_a (s : State) : s.laneLen .a = s.lenA := rfl
@[simp] theorem laneLen_b (s : State) : s.laneLen .b = s.lenB := rfl
@[simp] theorem buf_a (s : State) : s.buf .a = s.bufA := rfl
@[simp] theorem buf_b (s : State) : s.buf .b = s.bufB := rfl
@[simp] theorem buf_out (s : State) : s.buf .out = s.bufOut := rfl

/-- PADRD within the buffer answers the state with the padded byte latched. -/
theorem padRead_next {s : State} {lane : Lane} {j : Nat}
    (h : j < (s.laneLen lane).toNat → j < s.maxLen.toNat) :
    padRead lane j s = .next (s.setPad lane (j % 2 == 1) (padByte s lane j)) := by
  rw [padRead, if_neg (by omega)]

/-- What DES of a lane answers where it answers a state: both bytes latched, and the sample decoded from them. -/
def afterDesLane (be : Bool) (lane : Lane) (s : State) : State :=
  ((s.setPad lane false (padByte s lane (firstIndex s))).setPad lane true
    (padByte s lane (secondIndex s))).setSample lane
      (dec (padByte s lane (firstIndex s)) (padByte s lane (secondIndex s)) be)

/-- DES is its two fetches, each within the buffer or a fault, and then the decode. -/
theorem desLane_eq (be : Bool) (lane : Lane) (s : State) :
    desLane be lane s =
      if (firstIndex s < (s.laneLen lane).toNat ∧ s.maxLen.toNat ≤ firstIndex s) ∨
          (secondIndex s < (s.laneLen lane).toNat ∧ s.maxLen.toNat ≤ secondIndex s) then .fault .bufferRange
      else .next (afterDesLane be lane s) := by
  have f1 : (firstIndex s % 2 == 1) = false := by simp [firstIndex]
  have f2 : (secondIndex s % 2 == 1) = true := by simp [secondIndex]
  have hl : (s.setPad lane false (padByte s lane (firstIndex s))).laneLen lane = s.laneLen lane := by
    cases lane <;> rfl
  rw [desLane, padRead, f1]
  by_cases h1 : firstIndex s < (s.laneLen lane).toNat ∧ s.maxLen.toNat ≤ firstIndex s
  · rw [if_pos h1, if_pos (.inl h1)]
    rfl
  · rw [if_neg h1, andThen_next, padRead, hl, State.setPad_maxLen, f2,
      padByte_congr hl (by cases lane <;> rfl) (by simp) (by simp)]
    by_cases h2 : secondIndex s < (s.laneLen lane).toNat ∧ s.maxLen.toNat ≤ secondIndex s
    · rw [if_pos h2, if_pos (.inr h2)]
      rfl
    · rw [if_neg h2, if_neg (by tauto)]
      cases lane <;> rfl

/-- DES of a lane whose length is within the buffer answers a state. -/
theorem desLane_next {s : State} {lane : Lane} (be : Bool) (h : (s.laneLen lane).toNat ≤ s.maxLen.toNat) :
    desLane be lane s = .next (afterDesLane be lane s) := by
  rw [desLane_eq, if_neg (by omega)]

/-- Where DES answers a state, that is the state. -/
theorem desLane_inv {s t : State} {lane : Lane} {be : Bool} (h : desLane be lane s = .next t) :
    t = afterDesLane be lane s := by
  rw [desLane_eq] at h
  split_ifs at h
  cases h
  rfl

/-- SER within the buffer answers the state with the two bytes of `SO` stored. -/
theorem serWrite_next {s : State} (be : Bool) (h : secondIndex s < s.maxLen.toNat) :
    serWrite be s = .next (memWrite (memWrite s .out (firstIndex s) (enc s.so be).1) .out (secondIndex s)
      (enc s.so be).2) := by
  rw [serWrite, if_neg (by omega)]

/-- Where SER answers a state, its two indices are within the buffer and that is the state. -/
theorem serWrite_inv {s t : State} {be : Bool} (h : serWrite be s = .next t) :
    secondIndex s < s.maxLen.toNat ∧
      t = memWrite (memWrite s .out (firstIndex s) (enc s.so be).1) .out (secondIndex s) (enc s.so be).2 := by
  rw [serWrite] at h
  split_ifs at h with h'
  cases h
  exact ⟨by omega, rfl⟩

/-- The output bytes of a sample whose input bytes have been written stand. -/
theorem freeUnwrittenSample_written {s : State} (h : sampleWritten s s.idx.toNat = true) : freeUnwrittenSample s = s := by
  rw [freeUnwrittenSample, if_pos h]

/-- Freeing a sample's output bytes changes nothing but the output memory. -/
theorem freeUnwrittenSample_frame (s : State) :
    freeUnwrittenSample s = { s with bufOut := (freeUnwrittenSample s).bufOut } := by
  unfold freeUnwrittenSample
  split_ifs <;> rfl

@[simp] theorem freeUnwrittenSample_idx (s : State) : (freeUnwrittenSample s).idx = s.idx := by
  rw [freeUnwrittenSample_frame]

@[simp] theorem freeUnwrittenSample_outStamp (s : State) : (freeUnwrittenSample s).outStamp = s.outStamp := by
  rw [freeUnwrittenSample_frame]

/-- The length check either latches the padded length or enters InvalidLengthError. -/
theorem lenCheck_cases (s : State) :
    ((padLen s).toNat % 4 = 0 ∧ lenCheck s = s.setLpad (padLen s)) ∨
      ((padLen s).toNat % 4 ≠ 0 ∧ lenCheck s = raiseInvalidLength s.be (padLen s) s) := by
  by_cases h : lenOk (padLen s) = true
  · exact .inl ⟨(lenOk_iff _).mp h, by simp [lenCheck, h]⟩
  · exact .inr ⟨fun h' => h ((lenOk_iff _).mpr h'), by simp [lenCheck, h]⟩

/-- An accepted MIX command goes to RUN or to FAIL, by the padded length. -/
theorem startMix_eq (be : Bool) (s : State) :
    startMix be s = { s with
      be := be, idx := 0, lenOut := 0, lpad := padLen s, outStamp := s.outStamp + 1,
      phase := if (padLen s).toNat % 4 = 0 then .run else .fail } := by
  by_cases h : (padLen s).toNat % 4 = 0
  · have h' := (lenOk_iff _).mpr h
    have h'' : lenOk (padLen { s with be := be, idx := 0, lenOut := 0, outStamp := s.outStamp + 1 }) = true := h'
    simp only [startMix, lenCheck, h', h'', if_pos h, if_true]
    rfl
  · have h' : ¬ lenOk (padLen s) = true := fun h' => h ((lenOk_iff _).mp h')
    have h'' : ¬ lenOk (padLen { s with be := be, idx := 0, lenOut := 0, outStamp := s.outStamp + 1 }) = true := h'
    simp only [startMix, lenCheck, h', h'', if_neg h]
    rfl

/-- A MIX command is ignored while BUSY and otherwise accepted. -/
theorem mixCommand_eq (be : Bool) (s : State) :
    mixCommand be s = .next (if s.phase = .run then s else startMix be s) := by
  by_cases h : s.phase = .run <;> simp [mixCommand, busyFlag, h]

end Sys2Proof.Machine
end

