-- ==== Sys2Proof/Laws/Core.lean ====
section
/-! SUPPORT. What a turn of the core can do: the sample step as one equation, and the three cases of a core step. -/

namespace Sys2Proof.Machine

/-- The sample of a lane that the sample step decodes. -/
def decodedSample (s : State) (lane : Lane) : Sample :=
  dec (padByte s lane (firstIndex s)) (padByte s lane (secondIndex s)) s.be

/-- The pattern of the mean that the sample step stores. -/
def mixedSample (s : State) : Sample :=
  trunc16 (halve (sampleSum 32 (decodedSample s .a) (decodedSample s .b)))

/-- The output memory after a sample step: the two bytes of the mean, and free values over them where the sample read
an unwritten input byte (R162, R227). -/
def outAfterSample (s : State) : Memory :=
  let m := memInsert (memInsert s.bufOut (firstIndex s) (enc (mixedSample s) s.be).1) (secondIndex s)
    (enc (mixedSample s) s.be).2
  if sampleWritten s s.idx.toNat then m
  else memInsert (memInsert m (firstIndex s) (Config.unspecifiedOutByte s.freeTag s.outStamp (firstIndex s)))
    (secondIndex s) (Config.unspecifiedOutByte s.freeTag s.outStamp (secondIndex s))

/-- The state after a sample step (R162). -/
def afterSample (s : State) : State :=
  { s with
    padA0 := padByte s .a (firstIndex s), padA1 := padByte s .a (secondIndex s)
    padB0 := padByte s .b (firstIndex s), padB1 := padByte s .b (secondIndex s)
    sa := decodedSample s .a, sb := decodedSample s .b
    acc := halve (sampleSum 32 (decodedSample s .a) (decodedSample s .b)), so := mixedSample s
    bufOut := outAfterSample s
    idx := s.idx + 1, outStamp := s.outStamp + 1 }

/-- The select line chooses between the two forms of DES, which share one operation. -/
theorem exec_des (lane : Lane) (be : Bool) (s : State) : exec (decodeStage (.des lane) be) s = desLane be lane s := by
  cases be <;> rfl

/-- The select line chooses between the two forms of SER, which share one operation. -/
theorem exec_ser (be : Bool) (s : State) : exec (decodeStage .ser be) s = serWrite be s := by
  cases be <;> rfl

/-- DES of lane A leaves lane B's padded bytes as they were. -/
theorem padByte_afterDesLane_a (be : Bool) (s : State) (j : Nat) :
    padByte (afterDesLane be .a s) .b j = padByte s .b j := padByte_congr rfl rfl rfl rfl j

/-- DES of lane A as one update. -/
theorem afterDesLane_a (be : Bool) (s : State) : afterDesLane be .a s = { s with
      padA0 := padByte s .a (firstIndex s), padA1 := padByte s .a (secondIndex s)
      sa := dec (padByte s .a (firstIndex s)) (padByte s .a (secondIndex s)) be } := rfl

/-- DES of lane B as one update. -/
theorem afterDesLane_b (be : Bool) (s : State) : afterDesLane be .b s = { s with
      padB0 := padByte s .b (firstIndex s), padB1 := padByte s .b (secondIndex s)
      sb := dec (padByte s .b (firstIndex s)) (padByte s .b (secondIndex s)) be } := rfl

/-- The state after both lanes of DES in a sample step. -/
def afterDes (s : State) : State :=
  { s with
    padA0 := padByte s .a (firstIndex s), padA1 := padByte s .a (secondIndex s)
    padB0 := padByte s .b (firstIndex s), padB1 := padByte s .b (secondIndex s)
    sa := decodedSample s .a, sb := decodedSample s .b }

/-- The lanes share nothing: DES of lane B after lane A decodes what it would have decoded before. -/
theorem afterDesLane_both (s : State) : afterDesLane s.be .b (afterDesLane s.be .a s) = afterDes s := by
  have e1 : firstIndex (afterDesLane s.be .a s) = firstIndex s := rfl
  have e2 : secondIndex (afterDesLane s.be .a s) = secondIndex s := rfl
  rw [afterDesLane_b, e1, e2, padByte_afterDesLane_a, padByte_afterDesLane_a, afterDesLane_a]
  simp only [afterDes, decodedSample]

theorem andThen_assoc (o : Host.Outcome State Fault Refusal) (f g : State → Host.Outcome State Fault Refusal) :
    andThen (andThen o f) g = andThen o (fun t => andThen (f t) g) := by
  cases o <;> rfl

/-- The stages after DES, from any state, as one update. -/
def afterMix (s : State) : State :=
  { s with acc := halve (sampleSum 32 s.sa s.sb), so := trunc16 (halve (sampleSum 32 s.sa s.sb)) }

/-- The sample step as its operations. -/
theorem sampleStep_eq (s : State) :
    sampleStep s = andThen (desLane s.be .a s) fun t => andThen (desLane t.be .b t) fun u =>
      andThen (serWrite u.be (afterMix u)) fun v =>
        .next (((freeUnwrittenSample v).setIdx (v.idx + 1)).bumpStamp) := by
  simp only [sampleStep, sampleSlots, runSlots, exec_des, exec_ser, andThen_assoc, andThen_next]
  rfl

/-- The end of a sample step within the buffer, from the state DES leaves. -/
theorem serWrite_afterDes (s : State) (h : secondIndex s < s.maxLen.toNat) :
    andThen (serWrite s.be (afterMix (afterDes s))) (fun v =>
        .next (((freeUnwrittenSample v).setIdx (v.idx + 1)).bumpStamp)) = .next (afterSample s) := by
  rw [serWrite_next]
  · rw [andThen_next, freeUnwrittenSample]
    split_ifs with hw
    · have h' : sampleWritten s s.idx.toNat = true := hw
      simp only [State.setIdx, State.bumpStamp, memWrite, State.setBuf, State.buf, firstIndex, secondIndex,
        afterMix, afterDes, afterSample, outAfterSample, mixedSample, h', if_true]
    · have h' : ¬ sampleWritten s s.idx.toNat = true := hw
      simp only [State.setIdx, State.bumpStamp, memWrite, State.setBuf, State.buf, firstIndex, secondIndex,
        afterMix, afterDes, afterSample, outAfterSample, mixedSample, if_neg h']
  · exact h

/-- Within the buffers a sample step answers the state `afterSample`. -/
theorem sampleStep_next {s : State} (ha : s.lenA.toNat ≤ s.maxLen.toNat) (hb : s.lenB.toNat ≤ s.maxLen.toNat)
    (ho : secondIndex s < s.maxLen.toNat) : sampleStep s = .next (afterSample s) := by
  have hbe : (afterDesLane s.be .a s).be = s.be := rfl
  rw [sampleStep_eq, desLane_next (lane := .a) s.be ha, andThen_next, hbe, desLane_next (lane := .b), andThen_next,
    afterDesLane_both]
  · exact serWrite_afterDes s ho
  · exact hb

/-- Where a sample step answers a state, that is the state. -/
theorem sampleStep_inv {s t : State} (h : sampleStep s = .next t) : t = afterSample s := by
  have hbe : (afterDesLane s.be .a s).be = s.be := rfl
  rw [sampleStep_eq] at h
  obtain ⟨u, hu, h⟩ := andThen_eq_next.mp h
  obtain rfl := desLane_inv hu
  obtain ⟨v, hv, h⟩ := andThen_eq_next.mp h
  obtain rfl := desLane_inv hv
  rw [hbe, afterDesLane_both] at h
  obtain ⟨w, hw, -⟩ := andThen_eq_next.mp h
  have ho : secondIndex s < s.maxLen.toNat := (serWrite_inv hw).1
  have h' := serWrite_afterDes s ho
  have e : Host.Outcome.next t = .next (afterSample s) := h.symm.trans h'
  cases e
  rfl

/-- A turn of the core takes the sample step, takes the finish step, or changes nothing. -/
theorem coreStep_cases {s t : State} (h : coreStep s = .next t) :
    (s.phase = .run ∧ s.idx.toNat < s.lpad.toNat / 2 ∧ sampleStep s = .next t) ∨
      (s.phase = .run ∧ s.idx.toNat = s.lpad.toNat / 2 ∧ t = finishStep s) ∨
      (¬ (s.phase = .run ∧ s.idx.toNat ≤ s.lpad.toNat / 2) ∧ t = s) := by
  by_cases hp : s.phase = .run
  · rcases Nat.lt_trichotomy s.idx.toNat (s.lpad.toNat / 2) with hi | hi | hi
    · exact .inl ⟨hp, hi, by simpa [coreStep, sampleEnabled, busyFlag, hp, hi] using h⟩
    · have e : coreStep s = .next (finishStep s) := by
        simp [coreStep, sampleEnabled, finishEnabled, busyFlag, hp, hi]
      rw [e] at h
      cases h
      exact .inr (.inl ⟨hp, hi, rfl⟩)
    · have e : coreStep s = .next s := by
        simp [coreStep, sampleEnabled, finishEnabled, Nat.not_lt.mpr hi.le, Nat.ne_of_gt hi]
      rw [e] at h
      cases h
      exact .inr (.inr ⟨fun c => by omega, rfl⟩)
  · have e : coreStep s = .next s := by simp [coreStep, sampleEnabled, finishEnabled, busyFlag, hp]
    rw [e] at h
    cases h
    exact .inr (.inr ⟨fun c => hp c.1, rfl⟩)

/-- Outside phase RUN a turn of the core changes nothing (R52 (d)). -/
theorem coreStep_rest {s : State} (h : s.phase ≠ .run) : coreStep s = .next s := by
  simp [coreStep, sampleEnabled, finishEnabled, busyFlag, h]

/-- An enabled sample step is what the core's turn takes. -/
theorem coreStep_sample {s : State} (h : s.phase = .run) (hi : s.idx.toNat < s.lpad.toNat / 2) :
    coreStep s = sampleStep s := by
  simp [coreStep, sampleEnabled, busyFlag, h, hi]

/-- An enabled finish step is what the core's turn takes. -/
theorem coreStep_finish {s : State} (h : s.phase = .run) (hi : s.idx.toNat = s.lpad.toNat / 2) :
    coreStep s = .next (finishStep s) := by
  simp [coreStep, sampleEnabled, finishEnabled, busyFlag, h, hi]

/-- What the sample step leaves at the two indices it stores to, where the sample's input bytes have been written. -/
theorem readByte_afterSample_first {s : State} (hw : sampleWritten s s.idx.toNat = true) :
    readByte (afterSample s) .out (firstIndex s) = (enc (mixedSample s) s.be).1 := by
  have h : firstIndex s ≠ secondIndex s := by simp [firstIndex, secondIndex]
  simp [readByte, afterSample, outAfterSample, hw, memFind_memInsert_other _ _ h, memFind_memInsert_same]

theorem readByte_afterSample_second {s : State} (hw : sampleWritten s s.idx.toNat = true) :
    readByte (afterSample s) .out (secondIndex s) = (enc (mixedSample s) s.be).2 := by
  simp [readByte, afterSample, outAfterSample, hw, memFind_memInsert_same]

/-- Every other byte of the output buffer reads as before a sample step. -/
theorem readByte_afterSample_other (s : State) {i : Nat} (h1 : i ≠ firstIndex s) (h2 : i ≠ secondIndex s) :
    readByte (afterSample s) .out i = readByte s .out i := by
  by_cases hw : sampleWritten s s.idx.toNat = true <;>
    simp [readByte, afterSample, outAfterSample, hw, memFind_memInsert_other _ _ h1, memFind_memInsert_other _ _ h2]

/-- A sample step changes none of what decides which samples' input bytes have been written. -/
@[simp] theorem sampleWritten_afterSample (s : State) (i : Nat) :
    sampleWritten (afterSample s) i = sampleWritten s i := sampleWritten_congr rfl rfl rfl rfl i

/-- A sample step keeps the output memory in canonical form. -/
theorem wf_outAfterSample {s : State} (h : Memory.wf s.bufOut = true) : Memory.wf (outAfterSample s) = true := by
  have hm := wf_memInsert (secondIndex s) (enc (mixedSample s) s.be).2
    (wf_memInsert (firstIndex s) (enc (mixedSample s) s.be).1 h)
  simp only [outAfterSample]
  split_ifs
  · exact hm
  · exact wf_memInsert _ _ (wf_memInsert _ _ hm)

/-- The pattern the sample step stores is that of the mean of the two padded inputs' samples. -/
theorem mixedSample_eq (s : State) : mixedSample s = BitVec.ofInt 16 (meanAt s s.be s.idx.toNat) := by
  rw [mixedSample, trunc16_eq_ofInt (by norm_num), halve_toInt, sampleSum_toInt (by norm_num)]
  rfl

end Sys2Proof.Machine
end

