-- ==== Sys2Proof/Laws/Host.lean ====
section
/-! SUPPORT. What a turn of the host can do, and what a step can do. -/

namespace Sys2Proof.Machine

/-- A command word runs MIX.LE or MIX.BE when it is accepted, and otherwise changes nothing. -/
theorem cmdWrite_cases (w : Byte) (s : State) :
    cmdWrite w s = .next s ∨
      (s.phase ≠ .run ∧ cmdRsv w = 0 ∧ cmdGo w = true ∧ cmdWrite w s = .next (startMix (cmdBe w) s)) := by
  by_cases hr : cmdRsv w = 0
  · by_cases hg : cmdGo w = true
    · have hm : cmdWrite w s = mixCommand (cmdBe w) s := by
        cases hb : cmdBe w <;> simp [cmdWrite, decodeCmd, hr, hg, hb, exec, execMixLe, execMixBe]
      by_cases hp : s.phase = .run
      · exact .inl (by rw [hm, mixCommand_eq, if_pos hp])
      · exact .inr ⟨hp, hr, hg, by rw [hm, mixCommand_eq, if_neg hp]⟩
    · exact .inl (by simp [cmdWrite, decodeCmd, hr, hg, exec, execNop])
  · have hd : decodeCmd w = .rejected (.reservedWord w) := by rw [decodeCmd, if_pos hr]
    exact .inl (by rw [cmdWrite, hd])

/-- Everything a host operation can do to the block: nothing; a MIX command accepted; a length written; an input byte
written. What it can do beside that is to add to the values read and to the turns to come. -/
theorem hostStep_cases {op : HostOp} {s t : State} (h : hostStep op s = .next t) :
    (∃ r p, t = { s with reads := r, pending := p }) ∨
      (∃ v, op = .wrr 0 v ∧ s.phase ≠ .run ∧ cmdRsv (v.setWidth 8) = 0 ∧ cmdGo (v.setWidth 8) = true ∧
        t = startMix (cmdBe (v.setWidth 8)) s) ∨
      (∃ lane v, s.phase ≠ .run ∧ v ≤ s.maxLen ∧ t = s.setLen lane v) ∨
      (∃ lane : Lane, ∃ i v, s.phase ≠ .run ∧ i < s.maxLen.toNat ∧ t = memWrite s lane.space i v) := by
  have hlen : ∀ {lane : Lane} {v : Len}, writeLen lane v s = .next t →
      s.phase ≠ .run ∧ v ≤ s.maxLen ∧ t = s.setLen lane v := by
    intro lane v h
    simp only [writeLen, busyFlag, beq_iff_eq] at h
    split_ifs at h with h1 h2
    exact ⟨h1, by simpa [BitVec.not_lt] using h2, by simpa [eq_comm] using h⟩
  have hread : ∀ {reg : Nat} {u : State}, hostReadReg reg s = .next u → ∃ v, u = s.pushRead v := by
    intro reg u h
    simp only [hostReadReg] at h
    split at h
    · exact ⟨_, by simpa [eq_comm] using h⟩
    · simp at h
  cases op with
  | wrr reg v =>
    simp only [hostStep, writeReg] at h
    split at h
    · rcases cmdWrite_cases (v.setWidth 8) s with h' | ⟨hp, hr, hg, h'⟩
      · rw [h'] at h
        cases h
        exact .inl ⟨_, _, rfl⟩
      · rw [h'] at h
        cases h
        exact .inr (.inl ⟨v, rfl, hp, hr, hg, rfl⟩)
    · cases h
      exact .inl ⟨_, _, rfl⟩
    · exact .inr (.inr (.inl ⟨.a, v, hlen h⟩))
    · exact .inr (.inr (.inl ⟨.b, v, hlen h⟩))
    · cases h
      exact .inl ⟨_, _, rfl⟩
    · cases h
  | rdr reg =>
    obtain ⟨v, rfl⟩ := hread h
    exact .inl ⟨_, _, rfl⟩
  | wrb space i v =>
    simp only [hostStep, writeByte, busyFlag, beq_iff_eq] at h
    split_ifs at h with h1 h2 h3
    · cases h
      exact .inl ⟨_, _, rfl⟩
    · have hi : i < s.maxLen.toNat := by omega
      cases space
      · exact .inr (.inr (.inr ⟨.a, i, v, h3, hi, by simpa [Lane.space, eq_comm] using h⟩))
      · exact .inr (.inr (.inr ⟨.b, i, v, h3, hi, by simpa [Lane.space, eq_comm] using h⟩))
      · exact absurd rfl h2
  | rdb space i =>
    simp only [hostStep, hostReadByte] at h
    split_ifs at h
    cases h
    exact .inl ⟨_, _, rfl⟩
  | lda bytes =>
    cases h
    exact .inl ⟨_, _, rfl⟩
  | ldb bytes =>
    cases h
    exact .inl ⟨_, _, rfl⟩
  | wait =>
    simp only [hostStep] at h
    obtain ⟨u, hu, h⟩ := andThen_eq_next.mp h
    obtain ⟨v, rfl⟩ := hread hu
    cases h
    split_ifs <;> exact .inl ⟨_, _, rfl⟩
  | rdo =>
    simp only [hostStep] at h
    obtain ⟨u, hu, h⟩ := andThen_eq_next.mp h
    obtain ⟨v, rfl⟩ := hread hu
    cases h
    exact .inl ⟨_, _, rfl⟩
  | result =>
    simp only [hostStep] at h
    obtain ⟨u, hu, h⟩ := andThen_eq_next.mp h
    obtain ⟨v, rfl⟩ := hread hu
    cases h
    split_ifs <;> exact .inl ⟨_, _, rfl⟩
  | call a b be =>
    cases h
    exact .inl ⟨_, _, rfl⟩

/-- What a step is, by the turns still to come. -/
theorem step_cases {s t : State} (h : step s = .next t) :
    (s.pending = [] ∧ coreStep s = .next t) ∨
      (∃ rest, s.pending = .core :: rest ∧ coreStep (s.setPending rest) = .next t) ∨
      (∃ rest, s.pending = .reset :: rest ∧ t = resetEvent (s.setPending rest)) ∨
      (∃ op rest, s.pending = .host op :: rest ∧ hostStep op (s.setPending rest) = .next t) := by
  simp only [step, nextTurn] at h
  split at h
  · rename_i hp
    exact .inl ⟨hp, h⟩
  · rename_i x rest hp
    cases x with
    | host op => exact .inr (.inr (.inr ⟨op, rest, hp, h⟩))
    | core => exact .inr (.inl ⟨rest, hp, h⟩)
    | reset =>
      cases h
      exact .inr (.inr (.inl ⟨rest, hp, rfl⟩))

end Sys2Proof.Machine
end

