-- ==== Sys2Proof/Laws/PerInstr.lean ====
section
/-! SUPPORT. The family stated of every operation as syntax: decoding an encoded well-formed operation gives it back. -/

namespace Sys2Proof.Laws.RoundTrip

/-- What the family says of one operation. -/
def Statement (i : Instr) : Prop := i.wellFormed = true → decode (encode i) = .instr i

theorem mixLe : Statement .mixLe := fun _ => by decide

theorem mixBe : Statement .mixBe := fun _ => by decide

theorem nop (be : Bool) : Statement (.nop be) := fun _ => by cases be <;> decide

theorem lenchk (be : Bool) : Statement (.lenchk be) := fun _ => by cases be <;> decide

theorem padrd (be : Bool) (lane : Lane) (j : Nat) : Statement (.padrd be lane j) := by
  intro h
  have hj : j < 2 ^ 32 := by simpa [Instr.wellFormed] using h
  have e : (BitVec.ofNat 32 j).toNat = j := by rw [BitVec.toNat_ofNat, Nat.mod_eq_of_lt hj]
  cases be <;> simp [encode, decode, decodeStage, e]

theorem desLe (lane : Lane) : Statement (.desLe lane) := fun _ => rfl

theorem desBe (lane : Lane) : Statement (.desBe lane) := fun _ => rfl

theorem mixSum (be : Bool) : Statement (.mixSum be) := fun _ => by cases be <;> decide

theorem mixSra1 (be : Bool) : Statement (.mixSra1 be) := fun _ => by cases be <;> decide

theorem serTrunc (be : Bool) : Statement (.serTrunc be) := fun _ => by cases be <;> decide

theorem serLe : Statement .serLe := fun _ => rfl

theorem serBe : Statement .serBe := fun _ => rfl

end Sys2Proof.Laws.RoundTrip
end

