-- ==== Sys2Proof/Tests/Slice0.lean ====
section
/-! SUPPORT. Tests. Expected results are those of spec/95_test_vectors.md and of the encodings of spec/30_encoding.md; a
`witness_` theorem shows a state and operands that meet the hypotheses of the statement it names. -/

namespace Sys2Proof.Tests

open Sys2Proof Sys2Proof.Machine Sys2Proof.Safety

/-! ### Helpers -/

/-- The state after a transition that completes, and the reset state otherwise. -/
def after : Host.Outcome State Fault Refusal → State
  | .next t => t
  | .fault _ => State.reset
  | .refused _ => State.reset

/-- A transition completes. -/
def completes : Host.Outcome State Fault Refusal → Bool
  | .next _ => true
  | .fault _ => false
  | .refused _ => false

/-- A memory that holds bytes from index 0 on. -/
def mem (bytes : List Byte) : Memory := (List.range bytes.length).zip bytes

/-- A block of capacity 8 in phase IDLE with two inputs loaded. -/
def loaded (bytesA bytesB : List Byte) : State :=
  { State.reset with
    maxLen := 8
    lenA := BitVec.ofNat 32 bytesA.length
    lenB := BitVec.ofNat 32 bytesB.length
    bufA := mem bytesA
    bufB := mem bytesB }

/-- The inputs of program P2. -/
def p2 : State := loaded [0xFF, 0xFD, 0x7F, 0xFF, 0x80, 0x00, 0x12, 0x34] [0x00, 0x01, 0x00, 0x01]

/-- Program P2 in phase RUN at sample `i`. -/
def p2At (i : SampleIndex) : State := { p2 with phase := .run, be := true, lpad := 8, idx := i }

/-- Program P1 in phase RUN at its first sample. -/
def p1Run : State :=
  { loaded [0x00, 0x10, 0x00, 0x00] [0x00, 0x20, 0x00, 0x00] with phase := .run, lpad := 4 }

/-- A block in phase DONE with four bytes of output. -/
def finished : State :=
  { loaded [0x00, 0x10, 0x00, 0x00] [0x00, 0x20, 0x00, 0x00] with
    phase := .done, lpad := 4, lenOut := 4, idx := 2, bufOut := mem [0x00, 0x18, 0x00, 0x00] }

/-- A block in phase FAIL with two inputs of three bytes (S3). -/
def failed : State :=
  { loaded [0x01, 0x02, 0x03] [0x04, 0x05, 0x06] with phase := .fail, be := true, lpad := 3 }

/-- A state that no run reaches: a length above the capacity, and the sample in hand at its edge. -/
def overlong : State := { State.reset with lenA := 5, lenB := 5, maxLen := 4, idx := 2 }

/-! ### Well-formedness: the one check, at its boundary -/

theorem test_padrd_index_too_large : (Instr.padrd false .a (2 ^ 32)).wellFormed = false := by decide

theorem test_padrd_index_largest : (Instr.padrd true .b (2 ^ 32 - 1)).wellFormed = true := by decide

/-! ### Decoding: words written out bit by bit from R75 to R81 -/

theorem test_decode_mixLe : decode (.cmd 0b00000001#8) = .instr .mixLe := by decide

theorem test_decode_mixBe : decode (.cmd 0b00000011#8) = .instr .mixBe := by decide

theorem test_decode_nop : decode (.cmd 0b00000000#8) = .instr (.nop false) := by decide

theorem test_decode_nop_be : decode (.cmd 0b00000010#8) = .instr (.nop true) := by decide

theorem test_decode_reserved : decode (.cmd 0b00000101#8) = .rejected (.reservedWord 0x05) := by decide

theorem test_decode_lenchk : decode (.stage .lenchk 0b1#1) = .instr (.lenchk true) := by decide

theorem test_decode_padrd : decode (.stage (.padrd .b 3) 0b0#1) = .instr (.padrd false .b 3) := by decide

theorem test_decode_desLe : decode (.stage (.des .a) 0b0#1) = .instr (.desLe .a) := by decide

theorem test_decode_desBe : decode (.stage (.des .b) 0b1#1) = .instr (.desBe .b) := by decide

theorem test_decode_mixSum : decode (.stage .sum 0b0#1) = .instr (.mixSum false) := by decide

theorem test_decode_mixSra1 : decode (.stage .sra1 0b1#1) = .instr (.mixSra1 true) := by decide

theorem test_decode_serTrunc : decode (.stage .trunc 0b0#1) = .instr (.serTrunc false) := by decide

theorem test_decode_serLe : decode (.stage .ser 0b0#1) = .instr .serLe := by decide

theorem test_decode_serBe : decode (.stage .ser 0b1#1) = .instr .serBe := by decide

theorem test_table_word_mixBe : decodeTableWord 8 3 = some .mixBe := by decide

theorem test_table_word_reserved : decodeTableWord 8 0x83 = none := by decide

/-! ### Commands (section 6) -/

/-- Row IDLE, 4 and 2, word 0x03. -/
theorem test_mixBe_runs :
    (after (exec .mixBe (loaded [1, 2, 3, 4] [5, 6]))).phase = .run ∧
      (after (exec .mixBe (loaded [1, 2, 3, 4] [5, 6]))).be = true ∧
      (after (exec .mixBe (loaded [1, 2, 3, 4] [5, 6]))).lpad = 4 := by decide

/-- Row IDLE, 2 and 2, word 0x01. -/
theorem test_mixLe_fails :
    (after (exec .mixLe (loaded [1, 2] [5, 6]))).phase = .fail ∧
      (after (exec .mixLe (loaded [1, 2] [5, 6]))).lpad = 2 ∧
      statusByte (after (exec .mixLe (loaded [1, 2] [5, 6]))) = 0x04 := by decide

/-- Row FAIL, word 0x01: ERR cleared by an accepted command. -/
theorem test_mixLe_leaves_fail : (after (exec .mixLe { failed with lenA := 4 })).phase = .run := by decide

/-- Rows 0x02 and 0x05: nothing, with `BE` not latched and bit 0 set in vain. -/
theorem test_nop_and_reserved_words :
    after (hostStep (.wrr 0 0x02) finished) = finished ∧ after (hostStep (.wrr 0 0x05) finished) = finished := by decide

/-- Row RUN: ignored while BUSY. -/
theorem test_command_while_busy : after (hostStep (.wrr 0 0x03) p1Run) = p1Run := by decide

/-- Only bits 7:0 of a 32-bit write reach `CMD` (R150). -/
theorem test_command_upper_bits : (after (hostStep (.wrr 0 0x00000100) (loaded [] []))).phase = .idle := by decide

/-! ### DES (section 3) -/

/-- Section 3.1: 3 and 4 pass. -/
theorem test_lenchk_passes :
    (after (exec (.lenchk false) (loaded [1, 2, 3] [1, 2, 3, 4]))).phase = .idle ∧
      (after (exec (.lenchk false) (loaded [1, 2, 3] [1, 2, 3, 4]))).lpad = 4 := by decide

/-- Section 3.1: 5 and 1 fail, although 5 / 2 is even. -/
theorem test_lenchk_raises : (after (exec (.lenchk true) (loaded [1, 2, 3, 4, 5] [1]))).phase = .fail := by decide

/-- Section 3.2: the 0x33 below the length is read. -/
theorem test_padrd_reads :
    (after (exec (.padrd false .a 2) { loaded [0x11, 0x22, 0x33, 0x99] [] with lenA := 3 })).padA0 = 0x33 := by decide

/-- Section 3.2: the 0x99 beyond the length is not. -/
theorem test_padrd_pads :
    (after (exec (.padrd false .a 3)
      { loaded [0x11, 0x22, 0x33, 0x99] [] with lenA := 3, padA1 := 0x77 })).padA1 = 0x00 := by decide

/-- S1 step 1. -/
theorem test_desLe : (after (exec (.desLe .a) p1Run)).sa = 0x1000 := by decide

/-- The same bytes big-endian (section 3.3, row 0x00, 0x20). -/
theorem test_desBe : (after (exec (.desBe .b) p1Run)).sb = 0x0020 := by decide

/-- Section 3.3, rows 0x80, 0x00 and 0xFF, 0x00: a low byte is unsigned. -/
theorem test_dec_low_byte_unsigned :
    (dec 0x80 0x00 true).toInt = -32768 ∧ (dec 0x80 0x00 false).toInt = 128 ∧
      (dec 0xFF 0x00 true).toInt = -256 ∧ (dec 0xFF 0x00 false).toInt = 255 := by decide

/-! ### MIX (section 4) and SER (section 5) -/

/-- Row -32768, -32768. -/
theorem test_mixSum_low : (after (exec (.mixSum false) { p1Run with sa := 0x8000, sb := 0x8000 })).acc.toInt = -65536 := by
  decide

/-- Row 32767, 1. -/
theorem test_mixSum_high : (after (exec (.mixSum true) { p1Run with sa := 0x7FFF, sb := 1 })).acc.toInt = 32768 := by decide

/-- Row -3, 0: rounding down, not toward zero. -/
theorem test_mixSra1_floor :
    (after (exec (.mixSra1 false) { p1Run with acc := BitVec.ofInt 32 (-3) })).acc.toInt = -2 := by decide

/-- Row -1, 0: the sign is kept. -/
theorem test_mixSra1_sign :
    (after (exec (.mixSra1 false) { p1Run with acc := BitVec.ofInt 32 (-1) })).acc.toInt = -1 := by decide

/-- Section 5, SER.TRUNC at `ACC` = 0xFFFF8000. -/
theorem test_serTrunc : (after (exec (.serTrunc true) { p1Run with acc := 0xFFFF8000 })).so = 0x8000 := by decide

/-- S1 step 6. -/
theorem test_serLe : (after (exec .serLe { p1Run with so := 0x1800 })).bufOut = [(0, 0x00), (1, 0x18)] := by decide

/-- Section 5, row 0xFFFE. -/
theorem test_serBe : (after (exec .serBe { p1Run with so := 0xFFFE })).bufOut = [(0, 0xFF), (1, 0xFE)] := by decide

/-! ### The core steps (section 8) -/

/-- P1 after sample step 0. -/
theorem test_sample_step_p1 :
    (after (coreStep p1Run)).sa = 0x1000 ∧ (after (coreStep p1Run)).sb = 0x2000 ∧
      (after (coreStep p1Run)).acc.toInt = 6144 ∧ (after (coreStep p1Run)).so = 0x1800 ∧
      (after (coreStep p1Run)).idx = 1 ∧ (after (coreStep p1Run)).bufOut = [(0, 0x00), (1, 0x18)] := by decide

/-- P2 sample 1: a sum beyond 16 bits. -/
theorem test_sample_step_p2_carry :
    (after (coreStep (p2At 1))).acc.toInt = 16384 ∧
      (after (coreStep (p2At 1))).bufOut = [(2, 0x40), (3, 0x00)] := by decide

/-- P2 sample 2: lane B is padded. -/
theorem test_sample_step_p2_pad :
    (after (coreStep (p2At 2))).sb = 0 ∧ (after (coreStep (p2At 2))).bufOut = [(4, 0xC0), (5, 0x00)] := by decide

/-- R227: the little-endian sample of an unwritten byte and 0x10 does not store the high byte 0x08 that the mean with
silence would have; both output bytes are free, and the step is otherwise the same. -/
theorem test_sample_step_unwritten :
    (after (coreStep { p1Run with bufA := [(1, 0x10)], lenB := 0 })).bufOut =
        [(0, Config.unspecifiedOutByte 0 0 0), (1, Config.unspecifiedOutByte 0 0 1)] ∧
      (after (coreStep { p1Run with bufA := [(1, 0x10)], lenB := 0 })).idx = 1 := ⟨rfl, rfl⟩

/-- R206, U1: unwritten bytes of two instances are different free values. -/
theorem test_instances_unwritten :
    (platformReset 2).map (fun s => readByte s .a 0) = [Config.unwrittenByte 0 0 .a 0, Config.unwrittenByte 1 0 .a 0] :=
  rfl

/-- P2's finish step. -/
theorem test_finish_step :
    (after (coreStep (p2At 4))).phase = .done ∧ (after (coreStep (p2At 4))).lenOut = 8 ∧
      (after (coreStep (p2At 4))).idx = 4 := by decide

/-! ### The host and the pseudo-operations -/

/-- Section 6: `STATUS` by phase. -/
theorem test_status :
    statusByte State.reset = 0x00 ∧ statusByte p1Run = 0x01 ∧ statusByte finished = 0x02 ∧ statusByte failed = 0x04 := by
  decide

/-- R84: the operations that `LDA 0x00, 0x10` stands for. -/
theorem test_lda_expansion :
    (after (hostStep (.lda [0x00, 0x10]) State.reset)).pending =
      [.host (.wrb .a 0 0x00), .host (.wrb .a 1 0x10), .host (.wrr 2 2)] := by decide

/-- R84: the operations of a call. -/
theorem test_call_expansion :
    (after (hostStep (.call [1] [2] true) State.reset)).pending =
      [.host (.lda [1]), .host (.ldb [2]), .host (.wrr 0 0x03), .host .wait, .host .result] := by decide

/-- R157: `RDO` reads the length and then that many bytes. -/
theorem test_rdo_expansion :
    (after (hostStep .rdo { finished with lenOut := 2 })).pending = [.host (.rdb .out 0), .host (.rdb .out 1)] ∧
      (after (hostStep .rdo { finished with lenOut := 2 })).reads = [.word 2] := by decide

/-- R156: `WAIT` polls on while BUSY. -/
theorem test_wait_polls :
    (after (hostStep .wait p1Run)).pending = [.core, .host .wait] ∧ (after (hostStep .wait finished)).pending = [] := by
  decide

/-- P1: the second output byte. -/
theorem test_read_output : (after (hostStep (.rdb .out 1) finished)).reads = [.byte 0x18] := by decide

/-! ### The function of a transaction (section 7) -/

theorem test_mix_t5 : mixFn [0xFF, 0xFD, 0x7F, 0xFF] [0x00, 0x01] true = some [0xFF, 0xFF, 0x3F, 0xFF] := by decide

theorem test_mix_t15 : mixFn [0x11, 0x22, 0x33] [0x00, 0x00, 0x00, 0x80] false = some [0x08, 0x11, 0x19, 0xC0] := by decide

theorem test_mix_t16 : mixFn [0x11, 0x22, 0x33] [0x00, 0x00, 0x00, 0x80] true = some [0x08, 0x91, 0x19, 0xC0] := by decide

theorem test_mix_t10 :
    mixFn [0x12, 0x35, 0xFF, 0xFF, 0x80, 0x00, 0x00, 0x01] [0x01, 0x02, 0x00, 0x00, 0x7F, 0xFF, 0xFF, 0xFE] false =
      some [0x89, 0x1B, 0xFF, 0xFF, 0xFF, 0xFF, 0xFF, 0xFF] := by decide

theorem test_mix_t12_t24 : mixFn [] [] true = some [] ∧ mixFn [1, 2, 3, 4, 5, 6] [1, 2] false = none := by decide

/-! ### Witnesses: states that keep the invariants -/

theorem legal_loaded : Legal (loaded [1, 2, 3, 4] [5, 6]) := by
  constructor <;> decide

theorem legal_p2At_first : Legal (p2At 0) := by constructor <;> decide

theorem legal_p2At_last : Legal (p2At 3) := by constructor <;> decide

theorem legal_p2At_end : Legal (p2At 4) := by constructor <;> decide

theorem legal_finished : Legal finished := by constructor <;> decide

theorem legal_failed : Legal failed := by constructor <;> decide

/-- Four bytes loaded at each lane are all the input. -/
theorem inputsWritten_finished : InputsWritten finished := by
  intro lane j
  cases lane <;> rcases j with _ | _ | _ | _ | j <;> rfl

theorem inputsWritten_loaded : InputsWritten (loaded [1, 2, 3, 4] [5, 6]) := by
  intro lane j
  cases lane <;> rcases j with _ | _ | _ | _ | j <;> rfl

theorem canonical_finished : Canonical finished := ⟨by decide, by decide, by decide⟩

/-! ### Witnesses of the statements' hypotheses -/

theorem witness_DecodeEncodeAgree :
    (Instr.padrd true .b (2 ^ 32 - 1)).wellFormed = true ∧ decode (.cmd 0x02) = .instr (.nop true) := by decide

theorem witness_CommandWordsDecode : 4 ≤ (0x04 : BitVec 8).toNat ∧ 4 ≤ (0xFF : BitVec 8).toNat := by decide

theorem witness_SelectLineChoosesByteOrder : (∀ lane, Slot.padrd .a 3 ≠ .des lane) ∧ Slot.padrd .a 3 ≠ .ser :=
  ⟨fun _ h => (nomatch h), fun h => (nomatch h)⟩

theorem witness_AcceptedMixCommandResult :
    (loaded [1, 2, 3, 4] []).phase ≠ .run ∧ paddedLength (loaded [1, 2, 3, 4] []) % 4 = 0 ∧
      finished.phase ≠ .run ∧ failed.phase ≠ .run ∧ paddedLength failed % 4 = 3 := by decide

theorem witness_InvalidLengthEntry :
    (loaded [] [1]).phase ≠ .run ∧ paddedLength (loaded [] [1]) % 4 ≠ 0 := by decide

theorem witness_CommandWriteFollowsTests :
    p1Run.phase = .run ∧ State.reset.phase ≠ .run ∧ (0x05 : BitVec 32).extractLsb' 2 6 ≠ 0 ∧
      (0x02 : BitVec 32).getLsbD 0 = false ∧ (0x01 : BitVec 32).extractLsb' 2 6 = 0 := by decide

theorem witness_CommandWhileBusyIgnored : (p2At 3).phase = .run := by decide

theorem witness_ReservedWordIgnored :
    4 ≤ ((0x04 : BitVec 32).setWidth 8).toNat ∧ 4 ≤ ((0xFFFFFF05 : BitVec 32).setWidth 8).toNat := by decide

theorem witness_LenchkResult :
    paddedLength (loaded [] [1, 2, 3, 4]) % 4 = 0 ∧ paddedLength (loaded [1, 2, 3, 4, 5] []) % 4 ≠ 0 := by decide

/-- The last byte below the length, at the last byte of the buffer, and the first byte from the length on. -/
theorem witness_PadrdResult :
    (7 < (p2.laneLen .a).toNat ∧ 7 < p2.maxLen.toNat) ∧ ¬ 4 < (p2.laneLen .b).toNat := by decide

theorem witness_DesResult :
    ∀ j, j = 2 * (p2At 3).idx.toNat ∨ j = 2 * (p2At 3).idx.toNat + 1 → j < ((p2At 3).laneLen .a).toNat →
      j < (p2At 3).maxLen.toNat := by
  rintro j (rfl | rfl) _ <;> decide

theorem witness_AccessOutsideBufferFaults :
    4 < (overlong.laneLen .b).toNat ∧ overlong.maxLen.toNat ≤ 4 ∧ 4 = 2 * overlong.idx.toNat ∧
      overlong.maxLen.toNat ≤ 2 * overlong.idx.toNat + 1 := by decide

theorem witness_DecodeOrderSensitivity : ([0x12, 0x34, 0xFF, 0x80] : List Byte).length % 4 = 0 := by decide

theorem witness_OddLengthInput :
    ((loaded [0x11, 0x22, 0x80] []).laneLen .a).toNat = 2 * 1 + 1 ∧
      paddedLength (loaded [0x11, 0x22, 0x80] []) = 2 * 1 + 1 ∧ (loaded [0x11, 0x22, 0x80] []).phase ≠ .run := by decide

theorem witness_MeanFitsSixteenBits :
    (State.sa { p1Run with sa := 0x8000, sb := 0x8000 }).toInt = -32768 ∧
      (State.sb { p1Run with sa := 0x7FFF, sb := 0x7FFF }).toInt = 32767 ∧ 15 ≤ 31 ∧ 31 < 32 := by decide

theorem witness_AccumulatorWidthIrrelevant : 17 ≤ 17 ∧ trunc16 (halve (sampleSum 17 0x8000 0x8000)) = 0x8000 := by decide

theorem witness_SerTruncResult :
    -32768 ≤ (BitVec.ofInt 32 (-32768)).toInt ∧ (BitVec.ofInt 32 32767).toInt ≤ 32767 := by decide

/-- The last sample that fits the buffer. -/
theorem witness_SerResult : 2 * (p2At 3).idx.toNat + 1 < (p2At 3).maxLen.toNat := by decide

theorem witness_BufferRoundTrip : ([] : List Byte).length % 4 = 0 ∧ ([1, 2, 3, 4] : List Byte).length % 4 = 0 := by decide

theorem witness_SampleStepResult :
    Legal (p2At 3) ∧ (p2At 3).phase = .run ∧ (p2At 3).idx.toNat < (p2At 3).lpad.toNat / 2 ∧
      sampleWritten (p2At 3) (p2At 3).idx.toNat = true ∧ sampleWritten { p2At 3 with bufA := [] } 3 = false :=
  ⟨legal_p2At_last, by decide⟩

theorem witness_FinishStepResult : (p2At 4).phase = .run ∧ (p2At 4).idx.toNat = (p2At 4).lpad.toNat / 2 := by decide

theorem witness_TransactionTerminates : Legal (p2At 0) ∧ (p2At 0).phase = .run := ⟨legal_p2At_first, by decide⟩

theorem witness_CoreNeverWritesInputs : coreStep (p2At 0) = .next (after (coreStep (p2At 0))) := rfl

theorem witness_StepRunsDecodedCommand :
    State.pending { p2 with pending := [.host (.wrr 0 0x03), .core] } = .host (.wrr 0 0x03) :: [.core] ∧
      decode (.cmd ((0x03 : BitVec 32).setWidth 8)) = .instr .mixBe := by decide

theorem witness_StepRunsDecodedStages :
    (p2At 3).pending = [] ∧ (p2At 3).phase = .run ∧ (p2At 3).idx.toNat < (p2At 3).lpad.toNat / 2 := by decide

theorem witness_PlacedWordRuns :
    decodeTableWord 8 0 = some (.nop false) ∧ decodeTableWord 8 1 = some .mixLe ∧ decodeTableWord 8 3 = some .mixBe := by
  decide

theorem witness_RegisterWrites : p2.phase ≠ .run ∧ (8 : BitVec 32).toNat ≤ p2.maxLen.toNat := by decide

theorem witness_ByteWrites : 7 < p2.maxLen.toNat ∧ p2.phase ≠ .run := by decide

theorem witness_ByteReads :
    7 < finished.maxLen.toNat ∧ finished.phase = .done ∧ 3 < finished.lenOut.toNat ∧ ¬ 4 < finished.lenOut.toNat := by
  decide

theorem witness_UnspecifiedHostMovesRefused :
    p1Run.phase = .run ∧ 7 < p1Run.maxLen.toNat ∧ p2.phase ≠ .run ∧ p2.maxLen.toNat < (9 : BitVec 32).toNat ∧
      4 < 5 ∧ p2.maxLen.toNat ≤ 8 := by decide

theorem witness_HostTableIsExact :
    hostMay p2 (.wrr 2 8) = true ∧ hostMay p2 (.wrr 2 9) = false ∧ hostMay p1Run (.wrb .b 0 1) = false ∧
      hostMay p1Run (.wrb .out 0 1) = true := by decide

theorem witness_HostNeverWritesCoreRegisters :
    hostStep (.wrb .b 7 1) p2 = .next (after (hostStep (.wrb .b 7 1) p2)) ∧
      hostStep (.wrr 0 0x01) p2 = .next (after (hostStep (.wrr 0 0x01) p2)) := ⟨rfl, rfl⟩

theorem witness_WaitEnds :
    Legal { p2At 0 with pending := [.host .wait, .host .rdo] } ∧
      State.pending { p2At 0 with pending := [.host .wait, .host .rdo] } = .host .wait :: [.host .rdo] :=
  ⟨by constructor <;> decide, rfl⟩

theorem witness_ResetEventResult :
    State.pending { p2At 1 with pending := [.reset, .core] } = .reset :: [.core] := rfl

theorem witness_StepKeepsLegal : Legal (p2At 3) ∧ step (p2At 3) = .next (after (step (p2At 3))) :=
  ⟨legal_p2At_last, rfl⟩

theorem witness_StepKeepsCanonical : Canonical finished ∧ Canonical (p2At 3) ∧ step (p2At 3) = .next (after (step (p2At 3))) :=
  ⟨canonical_finished, ⟨by decide, by decide, by decide⟩, rfl⟩

theorem witness_StepKeepsSamplesDone :
    Legal (p2At 0) ∧ SamplesDone (p2At 0) ∧ step (p2At 0) = .next (after (step (p2At 0))) :=
  ⟨legal_p2At_first, fun _ i h => absurd h (Nat.not_lt_zero i), rfl⟩

/-- The second step of P1 starts from a state in which a sample is done. -/
theorem witness_StepKeepsSamplesDone_later :
    SamplesDone { p1Run with idx := 1, bufOut := [(0, 0x00), (1, 0x18)] } ∧
      sampleWritten { p1Run with idx := 1, bufOut := [(0, 0x00), (1, 0x18)] } 0 = true := by
  refine ⟨fun _ i h _ => ?_, by decide⟩
  have : i = 0 := Nat.lt_one_iff.mp h
  subst this
  decide

theorem witness_PhaseTransitions :
    (after (step (p2At 4))).phase = .done ∧
      (after (step { failed with pending := [.host (.wrr 0 0x01)] })).phase = .fail ∧
      (after (step { p2 with pending := [.host (.wrr 0 0x01)] })).phase = .run ∧
      (after (step { p2At 1 with pending := [.reset] })).phase = .idle := by decide

theorem witness_OutputStableAfterDone :
    finished.phase = .done ∧ ¬ startsOrResets finished ∧ step finished = .next finished :=
  ⟨rfl, (by rintro (⟨_, _, h, _⟩ | ⟨_, h⟩) <;> cases h), rfl⟩

theorem witness_LegalStepNeverFaults : Legal (p2At 4) := legal_p2At_end

theorem witness_StepKeepsCapacity : step State.reset = .next State.reset := rfl

theorem witness_InstancesIndependent :
    stepInstance 0 [p2At 3, finished] = some [after (step (p2At 3)), finished] ∧ (1 : Nat) ≠ 0 ∧
      (platformReset 3).map State.freeTag = [0, 1, 2] := ⟨rfl, by decide, rfl⟩

theorem witness_MixSpelledOut :
    mixFn [0x00, 0x10, 0x00, 0x00] [0x00, 0x20] false = some [0x00, 0x18, 0x00, 0x00] ∧ 1 < max 4 2 / 2 := by decide

theorem witness_MixLength : mixFn [1, 2, 3] [4, 5, 6] true = none ∧ mixFn [1, 2, 3] [4] true = none ∧
    mixFn [0x80, 0x00, 0x7F, 0xFF] [0x80, 0x00, 0x7F, 0xFF] true = some [0x80, 0x00, 0x7F, 0xFF] := by decide

theorem witness_MixWithSilence :
    ([0xFF, 0xFD, 0xFF, 0xFF] : List Byte).length % 4 = 0 ∧ 0 ≤ ([0xFF, 0xFD, 0xFF, 0xFF] : List Byte).length ∧
      mixFn [0xFF, 0xFD, 0xFF, 0xFF] [] true = some [0xFF, 0xFE, 0xFF, 0xFF] := by decide

theorem witness_EmptyTransaction :
    failed.phase ≠ .run ∧ (loaded [] []).phase ≠ .run ∧ (loaded [] []).lenA = 0 ∧ (loaded [] []).lenB = 0 := by decide

/-- With an output, and with the error. -/
theorem witness_TransactionComputesMix :
    (Legal (loaded [1, 2, 3, 4] [5, 6]) ∧ (loaded [1, 2, 3, 4] [5, 6]).phase ≠ .run ∧
        InputsWritten (loaded [1, 2, 3, 4] [5, 6]) ∧ mixFn [1, 2, 3, 4] [5, 6] false = some [3, 4, 1, 2]) ∧
      Legal failed ∧ failed.phase ≠ .run ∧ mixFn [1, 2, 3] [4, 5, 6] true = none :=
  ⟨⟨legal_loaded, by decide, inputsWritten_loaded, by decide⟩, legal_failed, by decide⟩

theorem witness_TransactionIsFunctionOfInputs :
    Legal finished ∧ Legal { finished with idx := 0, phase := .fail, lpad := 3, lenOut := 0 } ∧
      finished.phase ≠ .run ∧ InputsWritten finished ∧
      InputsWritten { finished with idx := 0, phase := .fail, lpad := 3, lenOut := 0 } ∧
      sampleWritten finished 1 = true ∧
      inputBytes finished .a = inputBytes { finished with idx := 0, phase := .fail, lpad := 3, lenOut := 0 } .a ∧
      inputBytes finished .b = inputBytes { finished with idx := 0, phase := .fail, lpad := 3, lenOut := 0 } .b :=
  ⟨legal_finished, by constructor <;> decide, by decide, inputsWritten_finished, inputsWritten_finished, by decide,
    rfl, rfl⟩

/-- A transaction with an unwritten input byte: one sample is not covered, the other is. -/
theorem witness_TransactionComputesMix_unwritten :
    Legal { loaded [1, 2, 3, 4] [] with bufA := [(2, 3), (3, 4)] } ∧
      sampleWritten { loaded [1, 2, 3, 4] [] with bufA := [(2, 3), (3, 4)] } 0 = false ∧
      sampleWritten { loaded [1, 2, 3, 4] [] with bufA := [(2, 3), (3, 4)] } 1 = true :=
  ⟨by constructor <;> decide, by decide, by decide⟩

/-- Inputs that fill the buffer, and a call that ends in the error. -/
theorem witness_CallReturnsMix :
    (Legal { finished with pending := [.host (.call [1, 2, 3, 4, 5, 6, 7, 8] [] true)] } ∧
        ([1, 2, 3, 4, 5, 6, 7, 8] : List Byte).length ≤ finished.maxLen.toNat ∧
        (mixFn [1, 2, 3, 4, 5, 6, 7, 8] [] true).isSome = true) ∧
      Legal { failed with pending := [.host (.call [1, 2] [3] false)] } ∧ mixFn [1, 2] [3] false = none :=
  ⟨⟨by constructor <;> decide, by decide⟩, by constructor <;> decide, by decide⟩

end Sys2Proof.Tests
end

section
/-! The parameter `MAX_LEN` and the tag of the instance, which no transition changes (R4, R206; log entries 1 and 24). -/

namespace Sys2Proof.Machine

/-- Two states may be of one instance: they agree in `MAX_LEN` and in the tag of free values. -/
def SameInstance (s t : State) : Prop := t.maxLen = s.maxLen ∧ t.freeTag = s.freeTag

/-- The turns still to come are no part of what tells instances apart. -/
theorem sameInstance_setPending {s t : State} {p : List Turn} :
    SameInstance (s.setPending p) t ↔ SameInstance s t := Iff.rfl

@[simp] theorem startMix_maxLen (be : Bool) (s : State) : (startMix be s).maxLen = s.maxLen := by
  rw [startMix_eq]

@[simp] theorem startMix_freeTag (be : Bool) (s : State) : (startMix be s).freeTag = s.freeTag := by
  rw [startMix_eq]

@[simp] theorem memWrite_maxLen (s : State) (space : Space) (i : Nat) (v : Byte) :
    (memWrite s space i v).maxLen = s.maxLen := s.setBuf_maxLen space _

@[simp] theorem memWrite_freeTag (s : State) (space : Space) (i : Nat) (v : Byte) :
    (memWrite s space i v).freeTag = s.freeTag := s.setBuf_freeTag space _

/-- A turn of the core keeps the capacity and the tag, whichever of its steps it takes. -/
theorem coreStep_sameInstance {s t : State} (h : coreStep s = .next t) : SameInstance s t := by
  obtain ⟨-, -, hsample⟩ | ⟨-, -, rfl⟩ | ⟨-, rfl⟩ := coreStep_cases h
  · obtain rfl := sampleStep_inv hsample
    exact ⟨rfl, rfl⟩
  · exact ⟨rfl, rfl⟩
  · exact ⟨rfl, rfl⟩

/-- A host operation keeps the capacity and the tag: it reads, starts a command, or writes a length or a byte. -/
theorem hostStep_sameInstance {op : HostOp} {s t : State} (h : hostStep op s = .next t) : SameInstance s t := by
  obtain ⟨r, p, rfl⟩ | ⟨v, -, -, -, -, rfl⟩ | ⟨lane, v, -, -, rfl⟩ | ⟨lane, i, v, -, -, rfl⟩ := hostStep_cases h
  · exact ⟨rfl, rfl⟩
  · exact ⟨startMix_maxLen _ s, startMix_freeTag _ s⟩
  · exact ⟨s.setLen_maxLen lane v, s.setLen_freeTag lane v⟩
  · exact ⟨memWrite_maxLen s _ i v, memWrite_freeTag s _ i v⟩

/-- Settles O51: each kind of turn keeps both fields, and taking a turn from the list changes neither. -/
theorem stepKeepsCapacity : Obligations.StepKeepsCapacity := by
  intro s t h
  obtain ⟨-, hcore⟩ | ⟨rest, -, hcore⟩ | ⟨rest, -, rfl⟩ | ⟨op, rest, -, hhost⟩ := step_cases h
  · exact coreStep_sameInstance hcore
  · exact sameInstance_setPending.mp (coreStep_sameInstance hcore)
  · exact ⟨rfl, rfl⟩
  · exact sameInstance_setPending.mp (hostStep_sameInstance hhost)

end Sys2Proof.Machine
end

section
/-! SUPPORT. The frames of the two agents: what a turn of the core and what a host operation may write at all (R30). -/

namespace Sys2Proof.Machine

/-- A turn of the core writes its own registers, `LEN_OUT`, `PHASE` and `BUF_OUT`, and nothing else. -/
theorem coreStep_frame {s t : State} (h : coreStep s = .next t) :
    t = { s with
      phase := t.phase, lenOut := t.lenOut, idx := t.idx, sa := t.sa, sb := t.sb, acc := t.acc, so := t.so,
      bufOut := t.bufOut, padA0 := t.padA0, padA1 := t.padA1, padB0 := t.padB0, padB1 := t.padB1,
      outStamp := t.outStamp } := by
  obtain ⟨-, -, hsample⟩ | ⟨-, -, rfl⟩ | ⟨-, rfl⟩ := coreStep_cases h
  · obtain rfl := sampleStep_inv hsample
    rfl
  · rfl
  · rfl

/-- A host operation starts a command, or writes lengths and inputs, the values read and the turns to come alone. -/
theorem hostStep_frame {op : HostOp} {s t : State} (h : hostStep op s = .next t) :
    (∃ v, op = .wrr 0 v ∧ s.phase ≠ .run ∧ cmdRsv (v.setWidth 8) = 0 ∧ cmdGo (v.setWidth 8) = true ∧
      t = startMix (cmdBe (v.setWidth 8)) s) ∨
    t = { s with
      lenA := t.lenA, lenB := t.lenB, bufA := t.bufA, bufB := t.bufB, reads := t.reads, pending := t.pending } := by
  obtain ⟨r, p, rfl⟩ | hmix | ⟨lane, v, -, -, rfl⟩ | ⟨lane, i, v, -, -, rfl⟩ := hostStep_cases h
  · exact .inr rfl
  · exact .inl hmix
  · cases lane <;> exact .inr rfl
  · cases lane <;> exact .inr rfl

/-- A property that taking a turn from the list, the core, the host and the reset event each keep is kept by every
step. -/
theorem step_keeps {P : State → Prop} (hturn : ∀ s p, P s → P (s.setPending p))
    (hcore : ∀ s t, P s → coreStep s = .next t → P t)
    (hhost : ∀ op s t, P s → hostStep op s = .next t → P t) (hreset : ∀ s, P s → P (resetEvent s))
    {s t : State} (hs : P s) (h : step s = .next t) : P t := by
  obtain ⟨-, h⟩ | ⟨rest, -, h⟩ | ⟨rest, -, rfl⟩ | ⟨op, rest, -, h⟩ := step_cases h
  · exact hcore s t hs h
  · exact hcore _ t (hturn s rest hs) h
  · exact hreset _ (hturn s rest hs)
  · exact hhost op _ t (hturn s rest hs) h

/-- The two words that carry an accepted command, 0x01 and 0x03, are those with `GO` set and `RSV` zero (R75). -/
theorem eq_one_or_three_of_go {w : Byte} (hr : cmdRsv w = 0) (hg : cmdGo w = true) : w = 0x01 ∨ w = 0x03 := by
  have hr' : w.toNat / 4 % 64 = 0 := by
    simpa [cmdRsv, BitVec.extractLsb'_toNat, Nat.shiftRight_eq_div_pow] using congrArg BitVec.toNat hr
  have hg' : w.toNat % 2 = 1 := by
    simpa [cmdGo, BitVec.getLsbD, Nat.testBit_zero] using hg
  have hw := w.isLt
  have hn : w.toNat = 1 ∨ w.toNat = 3 := by omega
  exact hn.imp BitVec.eq_of_toNat_eq BitVec.eq_of_toNat_eq

/-- Settles O29, a part of what a turn of the core leaves. -/
theorem coreNeverWritesInputs : Obligations.CoreNeverWritesInputs := by
  intro s t h
  rw [coreStep_frame h]
  exact ⟨rfl, rfl, rfl, rfl, rfl, rfl, rfl, rfl⟩

/-- Settles O40: the one host operation that writes a register of the core is a write of 0x01 or 0x03 to `CMD`. -/
theorem hostNeverWritesCoreRegisters : Obligations.HostNeverWritesCoreRegisters := by
  intro s t op h
  obtain ⟨v, hop, hp, hr, hg, -⟩ | e := hostStep_frame h
  · exact .inl ⟨v, hop, hp, eq_one_or_three_of_go hr hg⟩
  · rw [e]
    exact .inr ⟨rfl, rfl, rfl, rfl, rfl, rfl, rfl, rfl, rfl, rfl⟩

end Sys2Proof.Machine
end

section
/-! `PHASE`: the transitions of R18, the status byte that is a view of it (R12), and the transaction that a MIX command
starts straight after reset (R28). -/

namespace Sys2Proof.Machine

open Sys2Proof.Safety

/-- An accepted MIX command leaves RUN or FAIL (R159). -/
theorem startMix_phase (be : Bool) (s : State) : (startMix be s).phase = .run ∨ (startMix be s).phase = .fail := by
  rw [startMix_eq]
  exact ite_eq_or_eq _ _ _

/-- A turn of the core keeps the phase, or ends the transaction at the end of the samples (R163). -/
theorem coreStep_phase {s t : State} (h : coreStep s = .next t) :
    t.phase = s.phase ∨ (s.phase = .run ∧ t.phase = .done ∧ s.idx.toNat = s.lpad.toNat / 2) := by
  obtain ⟨-, -, hsample⟩ | ⟨hp, hi, rfl⟩ | ⟨-, rfl⟩ := coreStep_cases h
  · obtain rfl := sampleStep_inv hsample
    exact .inl rfl
  · exact .inr ⟨hp, rfl, hi⟩
  · exact .inl rfl

/-- Settles O48: only an accepted command, the finish step and the reset event write `PHASE`. -/
theorem phaseTransitions : Obligations.PhaseTransitions := by
  refine ⟨rfl, rfl, rfl, rfl, rfl, fun s t h => ?_⟩
  obtain ⟨hp, h⟩ | ⟨rest, hp, h⟩ | ⟨rest, hp, rfl⟩ | ⟨op, rest, hp, h⟩ := step_cases h
  · obtain e | ⟨hrun, hdone, hi⟩ := coreStep_phase h
    · exact .inl e
    · exact .inr (.inr (.inl ⟨hrun, hdone, hi, .inl hp⟩))
  · obtain e | ⟨hrun, hdone, hi⟩ := coreStep_phase h
    · exact .inl e
    · exact .inr (.inr (.inl ⟨hrun, hdone, hi, .inr ⟨rest, hp⟩⟩))
  · exact .inr (.inr (.inr ⟨rfl, rest, hp⟩))
  · obtain ⟨v, rfl, hrun, hr, hg, rfl⟩ | e := hostStep_frame h
    · exact .inr (.inl ⟨hrun, startMix_phase _ _, v, rest, hp, hg, hr⟩)
    · rw [e]
      exact .inl rfl

/-- The four values of `STATUS`, one for each phase (R12). -/
def Phase.status : Phase → Byte
  | .idle => 0x00
  | .run => 0x01
  | .done => 0x02
  | .fail => 0x04

/-- `STATUS` is a view of `PHASE`. -/
theorem statusByte_eq (s : State) : statusByte s = s.phase.status := by
  simp only [statusByte, errFlag, doneFlag, busyFlag]
  cases s.phase <;> rfl

/-- Bits 7:3 of `STATUS` are zero in every phase. -/
theorem Phase.status_toNat_lt (p : Phase) : p.status.toNat < 2 ^ 3 := by
  cases p <;> decide

/-- Settles O33: `STATUS` depends on `PHASE` alone, so its bits follow from its four values. -/
theorem statusIsViewOfPhase : Obligations.StatusIsViewOfPhase := by
  intro s
  rw [statusByte_eq]
  refine ⟨?_, ?_, ?_, ?_, fun k hk => ?_, by rw [← statusByte_eq]; rfl, fun _ => rfl, rfl⟩
  · cases s.phase <;> rfl
  · cases s.phase <;> decide
  · cases s.phase <;> decide
  · cases s.phase <;> decide
  · have hlt := s.phase.status_toNat_lt.trans_le (Nat.pow_le_pow_right two_pos hk)
    exact Nat.testBit_lt_two_pow hlt

/-- The two MIX operations are one command with the flag as an argument (R160, R161). -/
theorem exec_mix (be : Bool) (s : State) : exec (if be then .mixBe else .mixLe) s = mixCommand be s := by
  cases be <;> rfl

/-- With both lengths 0 an accepted MIX command is in DONE, with no output, after one turn of the core (R174). -/
theorem emptyTransaction_done {s : State} (be : Bool) (hp : s.phase ≠ .run) (ha : s.lenA = 0) (hb : s.lenB = 0) :
    ∃ t, andThen (exec (if be then .mixBe else .mixLe) s) coreStep = .next t ∧ t.phase = .done ∧ t.lenOut = 0 := by
  have hpad : padLen s = 0 := by simp [padLen, ha, hb]
  have hrun : (startMix be s).phase = .run := by simp [startMix_eq, hpad]
  have hlpad : (startMix be s).lpad = 0 := by simp [startMix_eq, hpad]
  have hidx : (startMix be s).idx = 0 := by simp [startMix_eq]
  refine ⟨finishStep (startMix be s), ?_, rfl, hlpad⟩
  rw [exec_mix, mixCommand_eq, if_neg hp, andThen_next, coreStep_finish hrun (by simp [hlpad, hidx])]

/-- Settles O43: the values are those of `State.reset`, whose two inputs are empty. -/
theorem resetStateValues : Obligations.ResetStateValues :=
  ⟨rfl, rfl, rfl, rfl, rfl, rfl, rfl, rfl, fun sp => by cases sp <;> rfl,
    fun be => emptyTransaction_done be (by decide) rfl rfl⟩

end Sys2Proof.Machine
end

section
/-! The invariants: R29 with the bounds it rests on, and R19, at reset and over every step. -/

namespace Sys2Proof.Machine

open Sys2Proof.Safety

/-! ### R29 -/

/-- No part of R29 speaks of the input bytes, the values read or the turns to come. -/
theorem legal_of_inputs_turns {s : State} (hs : Legal s) (ma mb : Memory) (r : List ReadValue) (p : List Turn) :
    Legal { s with bufA := ma, bufB := mb, reads := r, pending := p } :=
  ⟨hs.lenA_le, hs.lenB_le, hs.lpad_le, hs.run, hs.done, hs.fail, hs.idle, hs.lenOut_le⟩

theorem legal_reset : Legal State.reset := by
  constructor <;> decide

/-- The reset event leaves lengths of 0, whatever the capacity. -/
theorem legal_resetEvent (s : State) : Legal (resetEvent s) where
  lenA_le := Nat.zero_le _
  lenB_le := Nat.zero_le _
  lpad_le := Nat.zero_le _
  run := nofun
  done := nofun
  fail := nofun
  idle _ := rfl
  lenOut_le := Nat.zero_le _

/-- While a sample is left `IDX` has room to advance: it stays below half of a 32-bit length. -/
theorem idx_add_one_toNat {s : State} (h : s.idx.toNat < s.lpad.toNat / 2) :
    (s.idx + 1).toNat = s.idx.toNat + 1 := by
  have := s.lpad.isLt
  have hone : (1 : SampleIndex).toNat = 1 := rfl
  rw [BitVec.toNat_add_of_lt (by omega), hone]

/-- An enabled sample step advances `IDX` to at most half of `LPAD` and leaves the lengths and the phase. -/
theorem legal_afterSample {s : State} (hs : Legal s) (hp : s.phase = .run) (hi : s.idx.toNat < s.lpad.toNat / 2) :
    Legal (afterSample s) := by
  obtain ⟨hl, h4, -, ho⟩ := hs.run hp
  have hi' : (s.idx + 1).toNat ≤ s.lpad.toNat / 2 := by
    rw [idx_add_one_toNat hi]
    exact hi
  exact ⟨hs.lenA_le, hs.lenB_le, hs.lpad_le, fun _ => ⟨hl, h4, hi', ho⟩, hs.done, hs.fail, hs.idle, hs.lenOut_le⟩

/-- The finish step makes `LEN_OUT` the padded length, which LENCHK let pass. -/
theorem legal_finishStep {s : State} (hs : Legal s) (hp : s.phase = .run) : Legal (finishStep s) := by
  obtain ⟨-, h4, -, -⟩ := hs.run hp
  exact ⟨hs.lenA_le, hs.lenB_le, hs.lpad_le, nofun, fun _ => ⟨rfl, h4⟩, nofun, nofun, hs.lpad_le⟩

/-- An accepted MIX command establishes R29 (a) or (c), by the test of LENCHK. -/
theorem legal_startMix {s : State} (hs : Legal s) (be : Bool) : Legal (startMix be s) := by
  have hpad : (padLen s).toNat = paddedLength s := padLen_toNat s
  have hle : (padLen s).toNat ≤ s.maxLen.toNat := by
    rw [hpad]
    exact max_le hs.lenA_le hs.lenB_le
  rw [startMix_eq]
  by_cases h4 : (padLen s).toNat % 4 = 0
  · rw [if_pos h4]
    exact ⟨hs.lenA_le, hs.lenB_le, hle, fun _ => ⟨hpad, h4, Nat.zero_le _, rfl⟩, nofun, nofun, nofun, Nat.zero_le _⟩
  · rw [if_neg h4]
    exact ⟨hs.lenA_le, hs.lenB_le, hle, nofun, nofun, fun _ => ⟨rfl, h4⟩, nofun, Nat.zero_le _⟩

/-- A length within the capacity may be written in every phase but RUN, where `LPAD` is tied to the lengths. -/
theorem legal_setLen {s : State} (hs : Legal s) (hp : s.phase ≠ .run) (lane : Lane) {v : Len} (hv : v ≤ s.maxLen) :
    Legal (s.setLen lane v) := by
  cases lane with
  | a => exact ⟨hv, hs.lenB_le, hs.lpad_le, fun h => absurd h hp, hs.done, hs.fail, hs.idle, hs.lenOut_le⟩
  | b => exact ⟨hs.lenA_le, hv, hs.lpad_le, fun h => absurd h hp, hs.done, hs.fail, hs.idle, hs.lenOut_le⟩

/-- A turn of the core keeps R29, whichever of its steps it takes. -/
theorem coreStep_keeps_legal {s t : State} (hs : Legal s) (h : coreStep s = .next t) : Legal t := by
  obtain ⟨hp, hi, hsample⟩ | ⟨hp, -, rfl⟩ | ⟨-, rfl⟩ := coreStep_cases h
  · obtain rfl := sampleStep_inv hsample
    exact legal_afterSample hs hp hi
  · exact legal_finishStep hs hp
  · exact hs

/-- A host operation keeps R29: it reads, starts a command, or writes a length or a byte. -/
theorem hostStep_keeps_legal {op : HostOp} {s t : State} (hs : Legal s) (h : hostStep op s = .next t) : Legal t := by
  obtain ⟨r, p, rfl⟩ | ⟨v, -, -, -, -, rfl⟩ | ⟨lane, v, hp, hv, rfl⟩ | ⟨lane, i, v, -, -, rfl⟩ := hostStep_cases h
  · exact legal_of_inputs_turns hs _ _ r p
  · exact legal_startMix hs _
  · exact legal_setLen hs hp lane hv
  · cases lane <;> exact legal_of_inputs_turns hs _ _ _ _

/-- Settles O45: the reset state is legal, and each kind of turn keeps R29. -/
theorem stepKeepsLegal : Obligations.StepKeepsLegal :=
  ⟨legal_reset, fun _ _ hs h =>
    step_keeps (fun _ p hs => legal_of_inputs_turns hs _ _ _ p) (fun _ _ => coreStep_keeps_legal)
      (fun _ _ _ => hostStep_keeps_legal) (fun s _ => legal_resetEvent s) hs h⟩

/-! ### R19 -/

/-- R19 speaks of phase RUN alone. -/
theorem samplesDone_of_not_run {s : State} (h : s.phase ≠ .run) : SamplesDone s := fun hp => absurd hp h

/-- R19 does not speak of the values read or of the turns to come. -/
theorem samplesDone_turns_iff {s : State} {r : List ReadValue} {p : List Turn} :
    SamplesDone { s with reads := r, pending := p } ↔ SamplesDone s := Iff.rfl

/-- An accepted MIX command leaves no sample below `IDX`. -/
theorem samplesDone_startMix (be : Bool) (s : State) : SamplesDone (startMix be s) := by
  rw [startMix_eq]
  exact fun _ i hi => absurd hi (Nat.not_lt_zero i)

/-- A sample step changes neither the padded inputs nor the mean of any sample. -/
theorem meanAt_afterSample (s : State) (be : Bool) (i : Nat) : meanAt (afterSample s) be i = meanAt s be i := rfl

/-- An enabled sample step writes the sample in hand and leaves the bytes of those below it. -/
theorem samplesDone_afterSample {s : State} (hs : SamplesDone s) (hp : s.phase = .run)
    (hi : s.idx.toNat < s.lpad.toNat / 2) : SamplesDone (afterSample s) := by
  intro _ i hlt hw
  have hlt' : i < s.idx.toNat + 1 := idx_add_one_toNat hi ▸ hlt
  have hbe : (afterSample s).be = s.be := rfl
  rw [sampleWritten_afterSample] at hw
  rw [meanAt_afterSample, hbe]
  obtain hbelow | rfl := Nat.lt_succ_iff_lt_or_eq.mp hlt'
  · rw [readByte_afterSample_other, readByte_afterSample_other]
    · exact hs hp i hbelow hw
    all_goals simp only [firstIndex, secondIndex]; omega
  · rw [encInt, ← mixedSample_eq]
    exact ⟨readByte_afterSample_first hw, readByte_afterSample_second hw⟩

/-- A turn of the core keeps R19. -/
theorem coreStep_keeps_samplesDone {s t : State} (hs : SamplesDone s) (h : coreStep s = .next t) : SamplesDone t := by
  obtain ⟨hp, hi, hsample⟩ | ⟨-, -, rfl⟩ | ⟨-, rfl⟩ := coreStep_cases h
  · obtain rfl := sampleStep_inv hsample
    exact samplesDone_afterSample hs hp hi
  · exact samplesDone_of_not_run nofun
  · exact hs

/-- A host operation keeps R19: in phase RUN it writes neither a length nor an input byte. -/
theorem hostStep_keeps_samplesDone {op : HostOp} {s t : State} (hs : SamplesDone s) (h : hostStep op s = .next t) :
    SamplesDone t := by
  obtain ⟨r, p, rfl⟩ | ⟨v, -, -, -, -, rfl⟩ | ⟨lane, v, hp, -, rfl⟩ | ⟨lane, i, v, hp, -, rfl⟩ := hostStep_cases h
  · exact samplesDone_turns_iff.mpr hs
  · exact samplesDone_startMix _ s
  · exact samplesDone_of_not_run (by rwa [State.setLen_phase])
  · exact samplesDone_of_not_run (by rwa [memWrite, State.setBuf_phase])

/-- Settles O47: each kind of turn keeps R19, from every state, legal or not. -/
theorem stepKeepsSamplesDone : Obligations.StepKeepsSamplesDone := by
  intro s t _ hs h
  exact step_keeps (fun _ _ hs => samplesDone_turns_iff.mpr hs) (fun _ _ => coreStep_keeps_samplesDone)
    (fun _ _ _ => hostStep_keeps_samplesDone) (fun _ _ => samplesDone_of_not_run nofun) hs h

/-- Settles O44: the reset state is legal, its memories are empty, and it is not in RUN. -/
theorem resetKeepsInvariants : Obligations.ResetKeepsInvariants :=
  ⟨legal_reset, ⟨rfl, rfl, rfl⟩, samplesDone_of_not_run nofun⟩

end Sys2Proof.Machine
end

section
/-! The buffer memories (20_memory.md): where an access faults and that no legal step makes such an access (R40, R50),
the two byte orders (R45), the canonical form of the memories, and the output after DONE (R53, R228). -/

namespace Sys2Proof.Machine

open Sys2Proof.Safety

/-! ### Accesses outside a buffer -/

/-- PADRD below the length and outside the buffer faults. -/
theorem padRead_fault {s : State} {lane : Lane} {j : Nat} (hl : j < (s.laneLen lane).toNat)
    (hm : s.maxLen.toNat ≤ j) : padRead lane j s = .fault .bufferRange := by
  rw [padRead, if_pos ⟨hl, hm⟩]

/-- DES faults when either of its two fetches does. -/
theorem desLane_fault {s : State} {lane : Lane} {j : Nat} (be : Bool) (hj : j = firstIndex s ∨ j = secondIndex s)
    (hl : j < (s.laneLen lane).toNat) (hm : s.maxLen.toNat ≤ j) : desLane be lane s = .fault .bufferRange := by
  rw [desLane_eq, if_pos]
  obtain rfl | rfl := hj
  · exact .inl ⟨hl, hm⟩
  · exact .inr ⟨hl, hm⟩

/-- SER faults when its second index is outside the buffer. -/
theorem serWrite_fault {s : State} (be : Bool) (hm : s.maxLen.toNat ≤ secondIndex s) :
    serWrite be s = .fault .bufferRange := by
  rw [serWrite, if_pos hm]

/-- Settles O13: the select line picks a form of DES or of SER, and either form makes the same accesses. -/
theorem accessOutsideBufferFaults : Obligations.AccessOutsideBufferFaults :=
  ⟨fun _ _ _ _ hl hm => padRead_fault hl hm,
    fun s lane be _ hj hl hm => (exec_des lane be s).trans (desLane_fault be hj hl hm),
    fun s be hm => (exec_ser be s).trans (serWrite_fault be hm)⟩

/-- A write of a length completes or is refused. -/
theorem writeLen_ne_fault (lane : Lane) (v : Len) (s : State) (r : Fault) : writeLen lane v s ≠ .fault r := by
  rw [writeLen]
  split_ifs <;> nofun

/-- A read of a register completes or is refused. -/
theorem hostReadReg_ne_fault (reg : Nat) (s : State) (r : Fault) : hostReadReg reg s ≠ .fault r := by
  rw [hostReadReg]
  cases readReg reg s <;> nofun

/-- A pseudo-operation that reads a register and then arranges the turns to come does not fault. -/
theorem readThen_ne_fault (reg : Nat) (s : State) (f : State → State) (r : Fault) :
    andThen (hostReadReg reg s) (fun t => .next (f t)) ≠ .fault r := by
  rw [Ne, andThen_eq_fault]
  rintro (h | ⟨u, -, h⟩)
  · exact hostReadReg_ne_fault reg s r h
  · cases h

/-- A write of a register completes or is refused, whatever the command word. -/
theorem writeReg_ne_fault (reg : Nat) (v : BitVec 32) (s : State) (r : Fault) : writeReg reg v s ≠ .fault r := by
  unfold writeReg
  split
  · obtain h | ⟨-, -, -, h⟩ := cmdWrite_cases (v.setWidth 8) s
    · rw [h]
      nofun
    · rw [h]
      nofun
  · nofun
  · exact writeLen_ne_fault .a v s r
  · exact writeLen_ne_fault .b v s r
  · nofun
  · nofun

/-- No host operation faults, from any state: an access to a byte that does not exist is refused (U7). -/
theorem hostStep_ne_fault (op : HostOp) (s : State) (r : Fault) : hostStep op s ≠ .fault r := by
  cases op with
  | wrr reg v => exact writeReg_ne_fault reg v s r
  | rdr reg => exact hostReadReg_ne_fault reg s r
  | wrb space i v =>
    rw [hostStep, writeByte]
    split_ifs <;> nofun
  | rdb space i =>
    rw [hostStep, hostReadByte]
    split_ifs <;> nofun
  | lda bytes => nofun
  | ldb bytes => nofun
  | wait => exact readThen_ne_fault 1 s _ r
  | rdo => exact readThen_ne_fault 4 s (·.prepend (readOutTurns s.lenOut.toNat)) r
  | result => exact readThen_ne_fault 1 s _ r
  | call bytesA bytesB be => nofun

/-- A step that faults is a turn of the core. -/
theorem coreStep_fault_of_step {s : State} {r : Fault} (h : step s = .fault r) :
    ∃ p, coreStep (s.setPending p) = .fault r := by
  rw [step, nextTurn] at h
  split at h
  · exact ⟨s.pending, h⟩
  · rename_i turn rest _
    cases turn with
    | host op => exact absurd h (hostStep_ne_fault op _ r)
    | core => exact ⟨rest, h⟩
    | reset => cases h

/-- The two bytes of a sample left to do are within the buffers, since `LPAD ≤ MAX_LEN` (R50). -/
theorem secondIndex_lt_maxLen {s : State} (hs : Legal s) (hi : s.idx.toNat < s.lpad.toNat / 2) :
    secondIndex s < s.maxLen.toNat := by
  have := hs.lpad_le
  rw [secondIndex]
  omega

/-- From a state that keeps R29 the core's turn completes, whichever of its steps is enabled. -/
theorem coreStep_completes {s : State} (hs : Legal s) : ∃ t, coreStep s = .next t := by
  by_cases hp : s.phase = .run
  · obtain ⟨-, -, hidx, -⟩ := hs.run hp
    obtain hi | hi := hidx.lt_or_eq
    · exact ⟨_, (coreStep_sample hp hi).trans
        (sampleStep_next hs.lenA_le hs.lenB_le (secondIndex_lt_maxLen hs hi))⟩
    · exact ⟨_, coreStep_finish hp hi⟩
  · exact ⟨s, coreStep_rest hp⟩

/-- Settles O50: only the core can fault, and from a legal state its turn completes. -/
theorem legalStepNeverFaults : Obligations.LegalStepNeverFaults := by
  intro s r hs h
  obtain ⟨p, hfault⟩ := coreStep_fault_of_step h
  obtain ⟨t, hnext⟩ := coreStep_completes (legal_of_inputs_turns hs s.bufA s.bufB s.reads p)
  cases hfault.symm.trans hnext

/-! ### The two byte orders -/

/-- A sample determines its two bytes, the most significant one first. -/
theorem byte_append_inj {p q p' q' : Byte} : p ++ q = p' ++ q' ↔ p = p' ∧ q = q' := by
  refine ⟨fun h => ⟨?_, ?_⟩, fun ⟨hp, hq⟩ => by rw [hp, hq]⟩
  · rw [← append_high p q, h, append_high]
  · rw [← append_low p q, h, append_low]

/-- Settles O15: the two orders are `p ++ q` and `q ++ p`, whose most significant bytes are `p` and `q`. -/
theorem decOrderSensitivity : Obligations.DecOrderSensitivity := by
  intro p q
  refine ⟨?_, rfl⟩
  calc dec p q true = dec p q false ↔ p ++ q = q ++ p := Iff.rfl
    _ ↔ p = q ∧ q = p := byte_append_inj
    _ ↔ p = q := and_iff_left_of_imp Eq.symm

/-! ### The canonical form -/

/-- The canonical form does not speak of the values read or of the turns to come. -/
theorem canonical_turns_iff {s : State} {r : List ReadValue} {p : List Turn} :
    Canonical { s with reads := r, pending := p } ↔ Canonical s := Iff.rfl

/-- A byte written keeps the three memories in canonical form. -/
theorem canonical_memWrite {s : State} (hs : Canonical s) (space : Space) (i : Nat) (v : Byte) :
    Canonical (memWrite s space i v) := by
  obtain ⟨ha, hb, ho⟩ := hs
  cases space with
  | a => exact ⟨wf_memInsert i v ha, hb, ho⟩
  | b => exact ⟨ha, wf_memInsert i v hb, ho⟩
  | out => exact ⟨ha, hb, wf_memInsert i v ho⟩

/-- A turn of the core keeps the canonical form: the sample step writes by insertion, the finish step writes no byte. -/
theorem coreStep_keeps_canonical {s t : State} (hs : Canonical s) (h : coreStep s = .next t) : Canonical t := by
  obtain ⟨-, -, hsample⟩ | ⟨-, -, rfl⟩ | ⟨-, rfl⟩ := coreStep_cases h
  · obtain rfl := sampleStep_inv hsample
    obtain ⟨ha, hb, ho⟩ := hs
    exact ⟨ha, hb, wf_outAfterSample ho⟩
  · exact hs
  · exact hs

/-- A host operation keeps the canonical form: it writes at most one byte. -/
theorem hostStep_keeps_canonical {op : HostOp} {s t : State} (hs : Canonical s) (h : hostStep op s = .next t) :
    Canonical t := by
  obtain ⟨r, p, rfl⟩ | ⟨v, -, -, -, -, rfl⟩ | ⟨lane, v, -, -, rfl⟩ | ⟨lane, i, v, -, -, rfl⟩ := hostStep_cases h
  · exact canonical_turns_iff.mpr hs
  · rw [startMix_eq]
    exact hs
  · cases lane <;> exact hs
  · exact canonical_memWrite hs lane.space i v

/-- Settles O46: the core and the host write by insertion, and the reset event empties the memories. -/
theorem stepKeepsCanonical : Obligations.StepKeepsCanonical := fun _ _ hs h =>
  step_keeps (fun _ _ hs => canonical_turns_iff.mpr hs) (fun _ _ => coreStep_keeps_canonical)
    (fun _ _ _ => hostStep_keeps_canonical) (fun _ _ => ⟨rfl, rfl, rfl⟩) hs h

/-! ### The output after DONE -/

/-- Outside phase RUN a step that is neither a reset nor a MIX command writes lengths and inputs, the values read and
the turns to come alone. -/
theorem step_frame_outside_run {s t : State} (hp : s.phase ≠ .run) (hn : ¬ startsOrResets s)
    (h : step s = .next t) :
    t = { s with
      lenA := t.lenA, lenB := t.lenB, bufA := t.bufA, bufB := t.bufB, reads := t.reads, pending := t.pending } := by
  obtain ⟨-, h⟩ | ⟨rest, -, h⟩ | ⟨rest, hpend, -⟩ | ⟨op, rest, hpend, h⟩ := step_cases h
  · cases (coreStep_rest hp).symm.trans h
    rfl
  · have hrest : coreStep (s.setPending rest) = .next (s.setPending rest) := coreStep_rest hp
    cases hrest.symm.trans h
    rfl
  · exact absurd (.inr ⟨rest, hpend⟩) hn
  · obtain ⟨v, rfl, -, hr, hg, -⟩ | e := hostStep_frame h
    · exact absurd (.inl ⟨v, rest, hpend, hg, hr⟩) hn
    · exact e

/-- Settles O49: the frame of such a step holds `PHASE`, `LEN_OUT` and all that a read of `BUF_OUT` depends on. -/
theorem outputStableAfterDone : Obligations.OutputStableAfterDone := by
  intro s t hdone hn h
  have hp : s.phase ≠ .run := by
    rw [hdone]
    nofun
  rw [step_frame_outside_run hp hn h]
  exact ⟨hdone, rfl, rfl⟩

end Sys2Proof.Machine
end

section
/-! The encoding (30_encoding.md): the fields of a command word, the stage select, that decoding and encoding agree in
both directions (R75 to R82), and what the select line chooses (R81). -/

namespace Sys2Proof

/-! ### Command words -/

/-- The field `RSV` is zero exactly in the words 0x00 to 0x03. -/
theorem cmdRsv_eq_zero_iff (w : BitVec 8) : cmdRsv w = 0 ↔ w.toNat < 4 := by
  have := w.isLt
  rw [cmdRsv, ← BitVec.toNat_inj, BitVec.extractLsb'_toNat, Nat.shiftRight_eq_div_pow, BitVec.ofNat_eq_ofNat,
    BitVec.toNat_zero]
  omega

theorem cmdWord_toNat (be go : Bool) : (cmdWord be go).toNat = 2 * be.toNat + go.toNat := by
  cases be <;> cases go <;> rfl

/-- A word with `RSV` zero is the word of its two other fields. -/
theorem cmdWord_fields {w : BitVec 8} (h : cmdRsv w = 0) : cmdWord (cmdBe w) (cmdGo w) = w := by
  have hw := (cmdRsv_eq_zero_iff w).mp h
  apply BitVec.eq_of_toNat_eq
  rw [cmdWord_toNat, cmdBe, cmdGo, BitVec.getLsbD, BitVec.getLsbD, Nat.toNat_testBit, Nat.toNat_testBit]
  omega

/-- A word with a bit of `RSV` set is rejected, whatever its other fields (R79). -/
theorem decodeCmd_reserved {w : BitVec 8} (h : cmdRsv w ≠ 0) : decodeCmd w = .rejected (.reservedWord w) := by
  rw [decodeCmd, if_pos h]

/-- An operation decoded from a command word is well-formed and has that word as its encoding. -/
theorem encode_of_decodeCmd {w : BitVec 8} {i : Instr} (h : decodeCmd w = .instr i) :
    i.wellFormed = true ∧ encode i = .cmd w := by
  by_cases hr : cmdRsv w = 0
  · rw [← cmdWord_fields hr]
    rw [decodeCmd, if_neg (not_not_intro hr)] at h
    split_ifs at h with hg hb <;> cases h
    · exact ⟨rfl, by rw [hg, encode]⟩
    · exact ⟨rfl, by rw [hb, Bool.eq_true_of_not_eq_false hg, encode]⟩
    · exact ⟨rfl, by rw [Bool.eq_true_of_not_eq_false hb, Bool.eq_true_of_not_eq_false hg, encode]⟩
  · cases (decodeCmd_reserved hr).symm.trans h

/-- Settles O2: the four commands by their words, and a word from 0x04 on has a bit of `RSV` set. -/
theorem commandWordsDecode : Obligations.CommandWordsDecode :=
  ⟨by decide, by decide, by decide, by decide, fun w hw =>
    decodeCmd_reserved (mt (cmdRsv_eq_zero_iff w).mp (Nat.not_lt.mpr hw))⟩

/-! ### Stages -/

/-- The one-bit line is its bit. -/
theorem ofBool_line (line : BitVec 1) : BitVec.ofBool (line.getLsbD 0) = line := by
  have := line.isLt
  apply BitVec.eq_of_toNat_eq
  rw [BitVec.toNat_ofBool, BitVec.getLsbD, Nat.toNat_testBit]
  omega

/-- The select gives well-formed operations: a byte index on the index lines has 32 bits. -/
theorem decodeStage_wellFormed (slot : Slot) (be : Bool) : (decodeStage slot be).wellFormed = true := by
  cases slot with
  | padrd lane j => exact decide_eq_true j.isLt
  | des lane => cases be <;> rfl
  | ser => cases be <;> rfl
  | lenchk | sum | sra1 | trunc => rfl

/-- The encoding of a selected operation is its pipeline position and the line that selected it. -/
theorem encode_decodeStage (slot : Slot) (be : Bool) :
    encode (decodeStage slot be) = .stage slot (BitVec.ofBool be) := by
  cases slot with
  | padrd lane j => rw [decodeStage, encode, BitVec.ofNat_toNat, BitVec.setWidth_eq]
  | des lane => cases be <;> rfl
  | ser => cases be <;> rfl
  | lenchk | sum | sra1 | trunc => rfl

/-! ### Both directions -/

/-- The forward direction, from the family of lemmas on the operations. -/
theorem decode_encode {i : Instr} (h : i.wellFormed = true) : decode (encode i) = .instr i := by
  cases i with
  | mixLe => exact Laws.RoundTrip.mixLe h
  | mixBe => exact Laws.RoundTrip.mixBe h
  | nop be => exact Laws.RoundTrip.nop be h
  | lenchk be => exact Laws.RoundTrip.lenchk be h
  | padrd be lane j => exact Laws.RoundTrip.padrd be lane j h
  | desLe lane => exact Laws.RoundTrip.desLe lane h
  | desBe lane => exact Laws.RoundTrip.desBe lane h
  | mixSum be => exact Laws.RoundTrip.mixSum be h
  | mixSra1 be => exact Laws.RoundTrip.mixSra1 be h
  | serTrunc be => exact Laws.RoundTrip.serTrunc be h
  | serLe => exact Laws.RoundTrip.serLe h
  | serBe => exact Laws.RoundTrip.serBe h

/-- The backward direction: no two codes mean one operation, and no code means an ill-formed one. -/
theorem encode_of_decode {c : Code} {i : Instr} (h : decode c = .instr i) : i.wellFormed = true ∧ encode i = c := by
  cases c with
  | cmd w => exact encode_of_decodeCmd h
  | stage slot line =>
    cases h
    exact ⟨decodeStage_wellFormed slot _, by rw [encode_decodeStage, ofBool_line]⟩

/-- Settles O1: forward operation by operation, backward by the fields of the word or the pipeline position. -/
theorem decodeEncodeAgree : Obligations.DecodeEncodeAgree :=
  ⟨fun _ => decode_encode, fun _ _ => encode_of_decode⟩

/-! ### The select line -/

/-- Only DES and SER take the byte order from the select line; the meaning of every other stage is the same for both
values. -/
theorem exec_decodeStage_line {slot : Slot} (hdes : ∀ lane, slot ≠ .des lane) (hser : slot ≠ .ser) (be be' : Bool)
    (s : Machine.State) : Machine.exec (decodeStage slot be) s = Machine.exec (decodeStage slot be') s := by
  cases slot with
  | des lane => exact absurd rfl (hdes lane)
  | ser => exact absurd rfl hser
  | lenchk | padrd | sum | sra1 | trunc => rfl

/-- Settles O3: the two forms of DES and of SER by their line, and every other stage by its meaning. -/
theorem selectLineChoosesByteOrder : Obligations.SelectLineChoosesByteOrder :=
  ⟨fun _ => ⟨rfl, rfl⟩, rfl, rfl, fun _ s hdes hser => exec_decodeStage_line hdes hser false true s⟩

end Sys2Proof
end

section
/-! DES (40_des.md): the length check (R91), the padded fetch (R92), the decode of a sample (R95 to R97), the two byte
orders on a whole buffer (R100), and an input of odd length (R102). -/

namespace Sys2Proof.Machine

open Sys2Proof.Safety

/-! ### The length check -/

/-- Settles O10: the two cases of the length check, whose test and whose latched value are the greater length. -/
theorem lenchkResult : Obligations.LenchkResult := by
  intro s be
  have hexec : exec (.lenchk be) s = .next (lenCheck s) := rfl
  have hlatch : BitVec.ofNat 32 (paddedLength s) = padLen s := (padLen_eq_ofNat s).symm
  have htest : paddedLength s = (padLen s).toNat := (padLen_toNat s).symm
  rw [hexec, hlatch, htest]
  obtain ⟨h, e⟩ | ⟨h, e⟩ := lenCheck_cases s
  · exact ⟨fun _ => congrArg _ e, fun h' => absurd h h'⟩
  · exact ⟨fun h' => absurd h' h, fun _ => congrArg _ e⟩

/-! ### The padded fetch -/

/-- Below the length the padded byte is the buffer's. -/
theorem padByte_of_lt {s : State} {lane : Lane} {j : Nat} (h : j < (s.laneLen lane).toNat) :
    padByte s lane j = readByte s lane.space j := if_pos h

/-- From the length on the padded byte is zero, whatever the buffer holds. -/
theorem padByte_of_le {s : State} {lane : Lane} {j : Nat} (h : (s.laneLen lane).toNat ≤ j) :
    padByte s lane j = 0 := if_neg h.not_gt

/-- Settles O11: a fetch within the capacity does not fault, and what it latches is the padded byte. -/
theorem padrdResult : Obligations.PadrdResult := fun _ _ _ _ h => padRead_next h

/-! ### One sample -/

/-- The most significant byte has weight 256 and is the first for `be = 1`, the second for `be = 0`. -/
theorem dec_toNat (p q : Byte) (be : Bool) :
    (dec p q be).toNat = if be then 256 * p.toNat + q.toNat else 256 * q.toNat + p.toNat := by
  cases be with
  | true => exact byte_append_toNat p q
  | false => exact byte_append_toNat q p

/-- Two bytes joined, as a signed number: the most significant byte alone carries the sign (R98). -/
theorem byte_append_toInt (p q : Byte) : (p ++ q).toInt = 256 * p.toInt + q.toNat := by
  have hp := p.isLt
  have hq := q.isLt
  rw [BitVec.toInt_eq_toNat_cond, BitVec.toInt_eq_toNat_cond, byte_append_toNat]
  split_ifs <;> omega

/-- The value of two joined bytes by the sign of the most significant one (R95). -/
theorem byte_append_toInt_cases (p q : Byte) : (p ++ q).toInt =
    if p.toNat < 128 then 256 * (p.toNat : Int) + q.toNat else 256 * (p.toNat : Int) + q.toNat - 65536 := by
  rw [byte_append_toInt, BitVec.toInt_eq_toNat_cond]
  split_ifs <;> omega

/-- Decoding gives back an encoded sample. -/
theorem dec_enc (v : Sample) (be : Bool) : dec (enc v be).1 (enc v be).2 be = v := by
  cases be <;> exact bytes_append v

/-- Encoding gives back the two bytes of a decoded sample. -/
theorem enc_dec (p q : Byte) (be : Bool) : enc (dec p q be) be = (p, q) := by
  cases be with
  | true => exact Prod.ext (append_high p q) (append_low p q)
  | false => exact Prod.ext (append_low q p) (append_high q p)

/-- Settles O14: the signed value of the joined bytes, with `Enc` as the inverse of `Dec` for each byte order. -/
theorem decIsSignedBijection : Obligations.DecIsSignedBijection := by
  refine ⟨byte_append_toInt_cases, fun p q => byte_append_toInt_cases q p, fun be v => ⟨enc v be, dec_enc v be, ?_⟩⟩
  rintro ⟨p, q⟩ rfl
  exact (enc_dec p q be).symm

/-- DES answers a state when its two fetches are each within the capacity or from the length on. -/
theorem desLane_next_of_fetches {s : State} {lane : Lane} (be : Bool)
    (h : ∀ j, j = firstIndex s ∨ j = secondIndex s → j < (s.laneLen lane).toNat → j < s.maxLen.toNat) :
    desLane be lane s = .next (afterDesLane be lane s) := by
  have h1 := h _ (.inl rfl)
  have h2 := h _ (.inr rfl)
  rw [desLane_eq, if_neg (by omega)]

/-- Settles O12: both forms are DES with the line as an argument, and the sample is `Dec` of the two fetched bytes. -/
theorem desResult : Obligations.DesResult := fun s lane be h =>
  ⟨_, (exec_des lane be s).trans (desLane_next_of_fetches be h), dec_toNat _ _ be⟩

/-! ### A buffer in the two byte orders -/

/-- The samples of a buffer are the same in the two orders exactly when the bytes of each pair are equal; a last byte
without a partner makes no sample. -/
theorem decodePairs_orders_eq_iff : ∀ p : List Byte,
    decodePairs true p = decodePairs false p ↔ ∀ i, i < p.length / 2 → p[2 * i]? = p[2 * i + 1]?
  | [] => ⟨fun _ _ h => absurd h (Nat.not_lt_zero _), fun _ => rfl⟩
  | [_] => ⟨fun _ _ h => absurd h (by simp), fun _ => rfl⟩
  | x :: y :: rest => by
    have hlen : (x :: y :: rest).length / 2 = rest.length / 2 + 1 := by
      simp only [List.length_cons]
      omega
    have hhead : dec x y true = dec x y false ↔ x = y := (decOrderSensitivity x y).1
    rw [decodePairs, decodePairs, List.cons.injEq, hhead, decodePairs_orders_eq_iff rest, hlen,
      Nat.forall_lt_succ_left]
    simp [Nat.mul_add]

/-- Settles O16: with a length that the check lets pass, the decodes are the samples of the two orders. -/
theorem decodeOrderSensitivity : Obligations.DecodeOrderSensitivity := by
  intro p hp
  have hdec : ∀ be, decodeBuf p be = some (decodePairs be p) := fun be => if_neg (not_not_intro hp)
  rw [hdec, hdec, Option.some.injEq, decodePairs_orders_eq_iff]

/-! ### An input of odd length -/

/-- Little-endian, a sample whose second byte is a pad byte is its first byte's unsigned value. -/
theorem dec_pad_toInt_le (p : Byte) : (dec p 0 false).toInt = p.toNat := by
  rw [dec, if_neg (by decide), byte_append_toInt]
  simp

/-- Big-endian, a sample whose second byte is a pad byte is 256 times its first byte's signed value. -/
theorem dec_pad_toInt_be (p : Byte) : (dec p 0 true).toInt = 256 * p.toInt := by
  rw [dec, if_pos rfl, byte_append_toInt]
  simp

/-- A sample of two pad bytes is silence in either order. -/
theorem dec_pad_pad (be : Bool) : dec 0 0 be = 0 := by
  cases be <;> rfl

/-- Outside RUN a MIX command on a padded length that is no multiple of 4 ends in FAIL (R159). -/
theorem exec_mix_fails {s : State} (be : Bool) (hp : s.phase ≠ .run) (h4 : paddedLength s % 4 ≠ 0) :
    ∃ t, exec (if be then .mixBe else .mixLe) s = .next t ∧ t.phase = .fail := by
  have hpad : ¬ (padLen s).toNat % 4 = 0 := padLen_toNat s ▸ h4
  refine ⟨startMix be s, by rw [exec_mix, mixCommand_eq, if_neg hp], ?_⟩
  rw [startMix_eq, if_neg hpad]

/-- Settles O17: byte `2i` is the last below the length, so every later byte of the padded lane is a pad byte. -/
theorem oddLengthInput : Obligations.OddLengthInput := by
  intro s lane i hlen
  have hlast : padByte s lane (2 * i) = readByte s lane.space (2 * i) := padByte_of_lt (by omega)
  have hpad : ∀ j, 2 * i < j → padByte s lane j = 0 := fun j hj => padByte_of_le (by omega)
  refine ⟨?_, ?_, fun k be hk => ?_, fun hL hp be => exec_mix_fails be hp (by omega)⟩
  · rw [hlast, hpad _ (by omega), dec_pad_toInt_le]
  · rw [hlast, hpad _ (by omega), dec_pad_toInt_be]
  · rw [hpad _ (by omega), hpad _ (by omega), dec_pad_pad]

end Sys2Proof.Machine
end

section
/-! MIX (41_mix.md): the exact sum (R110), the halving that rounds down (R111), the mean at every accumulator width
(R116), and its fit in the 16 bits of `SO` (R113, R114). -/

namespace Sys2Proof.Machine

/-! ### The sum and the halving -/

/-- Settles O18: the accumulator has room for the carry, so the sum is that of the integers. -/
theorem mixSumExact : Obligations.MixSumExact := fun s _ =>
  ⟨sampleSum 32 s.sa s.sb, rfl, sampleSum_toInt (by norm_num) s.sa s.sb⟩

/-- Below the top bit the halving moves every bit down one place (R111). -/
theorem halve_getLsbD {w k : Nat} (v : BitVec w) (h : k + 1 < w) : (halve v).getLsbD k = v.getLsbD (k + 1) := by
  rw [halve, BitVec.getLsbD_sshiftRight, decide_eq_false (by omega), if_pos (by omega), Nat.add_comm 1 k]
  simp

/-- The halving keeps the sign bit (R111). -/
@[simp] theorem halve_msb {w : Nat} (v : BitVec w) : (halve v).msb = v.msb := BitVec.msb_sshiftRight

/-- Settles O19: the shift as an integer, its top bit as the sign, and its other bits one by one. -/
theorem mixSra1Floor : Obligations.MixSra1Floor := fun s _ =>
  ⟨halve s.acc, rfl, halve_toInt s.acc, halve_msb s.acc, fun _ h => halve_getLsbD s.acc (by omega)⟩

/-! ### The mean -/

/-- After the sum and the halving the accumulator is the mean rounded down, at every width with room for the carry
(R113). -/
theorem halve_sampleSum_toInt {w : Nat} (hw : 17 ≤ w) (a b : Sample) :
    (halve (sampleSum w a b)).toInt = avg a.toInt b.toInt := by
  rw [halve_toInt, sampleSum_toInt hw, avg]

/-- Settles O20: the low 16 bits depend on the accumulator's integer alone, which is the mean at every width. -/
theorem accumulatorWidthIrrelevant : Obligations.AccumulatorWidthIrrelevant := fun w a b hw => by
  rw [trunc16_eq_ofInt hw, halve_sampleSum_toInt hw]

/-- The mean lies between the two numbers (R114). -/
theorem avg_between (a b : Int) : min a b ≤ avg a b ∧ avg a b ≤ max a b := by
  rw [avg]
  omega

/-- The mean of a number with itself is that number, so the mean of two samples reaches both extremes. -/
@[simp] theorem avg_self (a : Int) : avg a a = a := by
  rw [avg]
  omega

/-- The mean of two samples is in the range of a sample (R114). -/
theorem avg_fits (a b : Sample) : -32768 ≤ avg a.toInt b.toInt ∧ avg a.toInt b.toInt ≤ 32767 := by
  have ha := BitVec.toInt_lt (x := a)
  have ha' := BitVec.le_toInt (x := a)
  have hb := BitVec.toInt_lt (x := b)
  have hb' := BitVec.le_toInt (x := b)
  have h := avg_between a.toInt b.toInt
  omega

/-! ### The truncation of a value that fits -/

/-- The truncation of a value in the range of a sample loses nothing (R130). -/
theorem trunc16_toInt_of_fits {w : Nat} (hw : 17 ≤ w) {v : BitVec w} (h : -32768 ≤ v.toInt ∧ v.toInt ≤ 32767) :
    (trunc16 v).toInt = v.toInt := by
  rw [trunc16_eq_ofInt hw, BitVec.toInt_ofInt]
  apply Int.bmod_eq_of_le <;> omega

/-- A value in the range of a sample is the sign extension of its truncation. -/
theorem signExtend_trunc16_of_fits {w : Nat} (hw : 17 ≤ w) {v : BitVec w}
    (h : -32768 ≤ v.toInt ∧ v.toInt ≤ 32767) : (trunc16 v).signExtend w = v := by
  apply BitVec.eq_of_toInt_eq
  rw [BitVec.toInt_signExtend_of_le (by omega), trunc16_toInt_of_fits hw h]

/-- From bit 15 up a sign extension holds copies of the sample's sign. -/
theorem signExtend_getLsbD_of_le {w k : Nat} (a : Sample) (h15 : 15 ≤ k) (hk : k < w) :
    (a.signExtend w).getLsbD k = a.msb := by
  rw [BitVec.getLsbD_signExtend, decide_eq_true hk, Bool.true_and, BitVec.msb_eq_getLsbD_last]
  split_ifs with h
  · rw [show k = 15 by omega]
  · rfl

/-- In a value in the range of a sample all bits from 15 up are equal (R114). -/
theorem getLsbD_eq_of_fits {w k l : Nat} (hw : 17 ≤ w) {v : BitVec w} (h : -32768 ≤ v.toInt ∧ v.toInt ≤ 32767)
    (hk : 15 ≤ k ∧ k < w) (hl : 15 ≤ l ∧ l < w) : v.getLsbD k = v.getLsbD l := by
  rw [← signExtend_trunc16_of_fits hw h, signExtend_getLsbD_of_le _ hk.1 hk.2, signExtend_getLsbD_of_le _ hl.1 hl.2]

/-! ### The three stages -/

/-- MIX.SUM, MIX.SRA1 and SER.TRUNC in order replace `ACC` and `SO`. -/
theorem exec_sum_sra1_trunc (s : State) (b1 b2 b3 : Bool) :
    andThen (exec (.mixSum b1) s) (fun u => andThen (exec (.mixSra1 b2) u) (exec (.serTrunc b3))) =
      .next (afterMix s) := rfl

/-- The three stages leave the mean of the two samples in `ACC` (R113). -/
theorem afterMix_acc_toInt (s : State) : (afterMix s).acc.toInt = avg s.sa.toInt s.sb.toInt :=
  halve_sampleSum_toInt (by norm_num) s.sa s.sb

/-- After the three stages `ACC` is in the range of a sample (R114). -/
theorem afterMix_acc_fits (s : State) : -32768 ≤ (afterMix s).acc.toInt ∧ (afterMix s).acc.toInt ≤ 32767 :=
  afterMix_acc_toInt s ▸ avg_fits s.sa s.sb

/-- The three stages leave in `SO` the value of `ACC`. -/
theorem afterMix_so_toInt (s : State) : (afterMix s).so.toInt = (afterMix s).acc.toInt :=
  trunc16_toInt_of_fits (by norm_num) (afterMix_acc_fits s)

/-- Settles O21: the mean lies between two samples, so it fits, and a value that fits is its truncation extended. -/
theorem meanFitsSixteenBits : Obligations.MeanFitsSixteenBits := by
  intro s b1 b2 b3
  have hso : (afterMix s).so.toInt = avg s.sa.toInt s.sb.toInt := (afterMix_so_toInt s).trans (afterMix_acc_toInt s)
  obtain ⟨hmin, hmax⟩ := avg_between s.sa.toInt s.sb.toInt
  refine ⟨afterMix s, exec_sum_sra1_trunc s b1 b2 b3, afterMix_acc_toInt s, afterMix_so_toInt s, hso ▸ hmin,
    hso ▸ hmax, fun k h15 hk => ?_, fun ha hb => ?_, fun ha hb => ?_⟩
  · exact getLsbD_eq_of_fits (by norm_num) (afterMix_acc_fits s) ⟨h15, hk⟩ (by decide)
  · rw [hso, ha, hb, avg_self]
  · rw [hso, ha, hb, avg_self]

end Sys2Proof.Machine
end

section
/-! Byte sequences and sample sequences: `Pad`, `Decode`, `Encode` and `Mix` index by index (R93, R99, R135, R170), and
that `Encode` undoes `Decode` (R134, R136). -/

namespace Sys2Proof.Machine

open Sys2Proof.Safety

/-! ### The bytes of one sample -/

/-- Settles O24: each order's pair of functions, and with crossed flags `Dec` is that of the exchanged bytes. -/
theorem encDecInverse : Obligations.EncDecInverse :=
  ⟨enc_dec, dec_enc, fun p q => enc_dec q p false⟩

/-- `Enc` of a sample as an integer is `Enc` of the sample. -/
@[simp] theorem encInt_toInt (v : Sample) (be : Bool) : encInt v.toInt be = enc v be := by
  rw [encInt, BitVec.ofInt_toInt]

/-! ### `Encode` -/

@[simp] theorem encodeSeq_nil (be : Bool) : encodeSeq [] be = [] := rfl

@[simp] theorem encodeSeq_cons (v : Int) (m : List Int) (be : Bool) :
    encodeSeq (v :: m) be = (encInt v be).1 :: (encInt v be).2 :: encodeSeq m be := rfl

@[simp] theorem encodeSeq_length (m : List Int) (be : Bool) : (encodeSeq m be).length = 2 * m.length := by
  induction m with
  | nil => rfl
  | cons v m ih => simp [ih, Nat.mul_add]

/-- The first byte of element `i` is at index `2i` (R135). -/
theorem encodeSeq_getElem?_first (m : List Int) (be : Bool) (i : Nat) :
    (encodeSeq m be)[2 * i]? = m[i]?.map fun v => (encInt v be).1 := by
  induction m generalizing i with
  | nil => rfl
  | cons v m ih =>
    cases i with
    | zero => rfl
    | succ i => simpa [Nat.mul_add] using ih i

/-- The second byte of element `i` is at index `2i + 1` (R135). -/
theorem encodeSeq_getElem?_second (m : List Int) (be : Bool) (i : Nat) :
    (encodeSeq m be)[2 * i + 1]? = m[i]?.map fun v => (encInt v be).2 := by
  induction m generalizing i with
  | nil => rfl
  | cons v m ih =>
    cases i with
    | zero => rfl
    | succ i => simpa [Nat.mul_add] using ih i

/-! ### `Decode` -/

/-- Where the length is a multiple of 4 `Decode` gives the samples of the byte pairs (R99). -/
theorem decodeBuf_eq_some {p : List Byte} (be : Bool) (h : p.length % 4 = 0) :
    decodeBuf p be = some (decodePairs be p) := if_neg (not_not_intro h)

/-- Sample `i` of a byte sequence followed by zero bytes (R94). -/
def sampleAt (be : Bool) (p : List Byte) (i : Nat) : Sample := dec (p.getD (2 * i) 0) (p.getD (2 * i + 1) 0) be

/-- The samples of a buffer index by index. -/
theorem decodePairs_eq_map (be : Bool) : ∀ p : List Byte,
    decodePairs be p = (List.range (p.length / 2)).map (sampleAt be p)
  | [] => rfl
  | [x] => by simp [decodePairs]
  | x :: y :: rest => by
    have hlen : (x :: y :: rest).length / 2 = rest.length / 2 + 1 := by
      simp only [List.length_cons]
      omega
    have htail : sampleAt be (x :: y :: rest) ∘ Nat.succ = sampleAt be rest := by
      funext i
      simp [sampleAt, Nat.mul_add]
    rw [decodePairs, decodePairs_eq_map be rest, hlen, List.range_succ_eq_map, List.map_cons, List.map_map, htail]
    rfl

theorem decodePairs_length (be : Bool) (p : List Byte) : (decodePairs be p).length = p.length / 2 := by
  simp [decodePairs_eq_map]

/-- `Encode` of the samples of whole byte pairs is the bytes. -/
theorem encodeSeq_decodePairs (be : Bool) : ∀ p : List Byte, p.length % 2 = 0 →
    encodeSeq ((decodePairs be p).map BitVec.toInt) be = p
  | [], _ => rfl
  | [_], h => absurd h (by simp)
  | x :: y :: rest, h => by
    have hrest : rest.length % 2 = 0 := by simpa [Nat.add_assoc] using h
    rw [decodePairs, List.map_cons, encodeSeq_cons, encInt_toInt, enc_dec, encodeSeq_decodePairs be rest hrest]

/-- Settles O25: a valid buffer is whole byte pairs, and each pair is the encoding of its sample. -/
theorem bufferRoundTrip : Obligations.BufferRoundTrip := fun p be h =>
  ⟨decodePairs be p, decodeBuf_eq_some be h, decodePairs_length be p, encodeSeq_decodePairs be p (by omega)⟩

/-! ### `Pad` and `Mix` -/

/-- Padding to a length no shorter than the sequence gives that length (R93). -/
theorem padSeq_length {x : List Byte} {l : Nat} (h : x.length ≤ l) : (padSeq x l).length = l := by
  simp [padSeq, h]

/-- Padding changes no byte: beyond the sequence it puts the zero that a read beyond the end gives (R93). -/
theorem padSeq_getD (x : List Byte) (l j : Nat) : (padSeq x l).getD j 0 = x.getD j 0 := by
  rw [padSeq]
  obtain h | h := lt_or_ge j x.length
  · rw [List.getD_append _ _ _ _ h]
  · rw [List.getD_append_right _ _ _ _ h, List.getD_eq_getElem?_getD, List.getElem?_getD_replicate_default_eq,
      List.getD_eq_default _ _ h]

theorem sampleAt_padSeq (be : Bool) (x : List Byte) (l : Nat) : sampleAt be (padSeq x l) = sampleAt be x := by
  funext i
  rw [sampleAt, padSeq_getD, padSeq_getD, sampleAt]

/-- The mean of sample `i` of two byte sequences, each followed by zero bytes (R170). -/
def mixAt (a b : List Byte) (be : Bool) (i : Nat) : Int := avg (sampleAt be a i).toInt (sampleAt be b i).toInt

/-- `Mix` index by index: the error by the padded length, and otherwise the encoding of the mean of each sample. -/
theorem mixFn_eq (a b : List Byte) (be : Bool) :
    mixFn a b be = if max a.length b.length % 4 = 0
      then some (encodeSeq ((List.range (max a.length b.length / 2)).map (mixAt a b be)) be) else none := by
  have ha := padSeq_length (le_max_left a.length b.length)
  have hb := padSeq_length (le_max_right a.length b.length)
  by_cases h4 : max a.length b.length % 4 = 0
  · rw [mixFn, if_neg (not_not_intro h4), if_pos h4, decodeBuf_eq_some be (ha.symm ▸ h4),
      decodeBuf_eq_some be (hb.symm ▸ h4)]
    simp only [decodePairs_eq_map, ha, hb, sampleAt_padSeq, mixSeq, List.zipWith_map, List.zipWith_self]
    rfl
  · rw [mixFn, if_pos h4, if_neg h4]

/-! ### The inputs as byte sequences -/

@[simp] theorem inputBytes_length (s : State) (lane : Lane) : (inputBytes s lane).length = (s.laneLen lane).toNat := by
  simp [inputBytes]

/-- A lane's padded bytes are its input followed by zero bytes (R92, R93). -/
theorem inputBytes_getD (s : State) (lane : Lane) (j : Nat) : (inputBytes s lane).getD j 0 = padByte s lane j := by
  obtain h | h := lt_or_ge j (s.laneLen lane).toNat
  · rw [padByte_of_lt h, List.getD_eq_getElem _ _ (by rwa [inputBytes_length])]
    simp [inputBytes]
  · rw [padByte_of_le h, List.getD_eq_default _ _ (by rwa [inputBytes_length])]

/-- The mean the sample step computes is that of `Mix` on the inputs. -/
theorem mixAt_inputBytes (s : State) (be : Bool) : mixAt (inputBytes s .a) (inputBytes s .b) be = meanAt s be := by
  funext i
  simp only [mixAt, sampleAt, inputBytes_getD, meanAt]

/-- `Mix` of a state's inputs. -/
theorem mixFn_inputBytes (s : State) (be : Bool) :
    mixFn (inputBytes s .a) (inputBytes s .b) be = if paddedLength s % 4 = 0
      then some (encodeSeq ((List.range (paddedLength s / 2)).map (meanAt s be)) be) else none := by
  rw [mixFn_eq, mixAt_inputBytes, inputBytes_length, inputBytes_length]
  rfl

end Sys2Proof.Machine
end

section
/-! SER (42_ser.md): the truncation on the whole range of `ACC` (R130, R139) and the store of the output sample's two
bytes (R131, R132). -/

namespace Sys2Proof.Machine

/-- The truncation is the residue modulo 65536, at every accumulator width from 16 on (R139). -/
theorem trunc16_toNat {w : Nat} (v : BitVec w) : (trunc16 v).toNat = v.toNat % 65536 := BitVec.toNat_setWidth 16 v

/-- Settles O22: the residue on the whole range, and no loss on the range of a sample. -/
theorem serTruncResult : Obligations.SerTruncResult := fun s _ =>
  ⟨trunc16 s.acc, rfl, trunc16_toNat s.acc, fun hlo hhi => trunc16_toInt_of_fits (by norm_num) ⟨hlo, hhi⟩⟩

/-- The byte of a sample at the lower index: the most significant one for `be = 1` (R133). -/
theorem enc_fst (v : Sample) (be : Bool) : (enc v be).1 = if be then v.extractLsb' 8 8 else v.extractLsb' 0 8 := by
  cases be <;> rfl

/-- The byte of a sample at the higher index: the least significant one for `be = 1` (R133). -/
theorem enc_snd (v : Sample) (be : Bool) : (enc v be).2 = if be then v.extractLsb' 0 8 else v.extractLsb' 8 8 := by
  cases be <;> rfl

/-- Settles O23: both forms store the two bytes of `Enc`, the second write missing the first's index. -/
theorem serResult : Obligations.SerResult := by
  intro s be h
  have hne : firstIndex s ≠ secondIndex s := by simp [firstIndex, secondIndex]
  refine ⟨_, (exec_ser be s).trans (serWrite_next be h), rfl, ?_, ?_, fun i (h1 : i ≠ firstIndex s) h2 => ?_⟩
  · rw [← enc_fst]
    exact (readByte_memWrite_other _ _ _ hne).trans (readByte_memWrite_same _ _ _ _)
  · rw [← enc_snd]
    exact readByte_memWrite_same _ _ _ _
  · exact (readByte_memWrite_other _ _ _ h2).trans (readByte_memWrite_other _ _ _ h1)

end Sys2Proof.Machine
end

section
/-! A transaction: what consecutive turns of the core keep, how many of them there are (R167), and that the output is
`Mix` of the inputs (R138, R170). -/

namespace Sys2Proof.Machine

open Sys2Proof.Safety

/-! ### Consecutive turns of the core -/

/-- The last of `n + 1` turns taken apart. -/
theorem coreSteps_succ_last (n : Nat) (s : State) : coreSteps (n + 1) s = andThen (coreSteps n s) coreStep := by
  induction n generalizing s with
  | zero => cases h : coreStep s <;> simp [coreSteps, h, andThen]
  | succ n ih =>
    rw [coreSteps, coreSteps, andThen_assoc]
    exact congrArg _ (funext ih)

/-- A property that each turn of the core keeps is kept by any number of them. -/
theorem coreSteps_keeps {P : State → Prop} (hcore : ∀ s t, P s → coreStep s = .next t → P t) {n : Nat}
    {s t : State} (hs : P s) (h : coreSteps n s = .next t) : P t := by
  induction n generalizing s with
  | zero =>
    cases h
    exact hs
  | succ n ih =>
    obtain ⟨u, hu, h⟩ := andThen_eq_next.mp h
    exact ih (hcore s u hs hu) h

/-- Outside phase RUN any number of turns of the core change nothing. -/
theorem coreSteps_rest {s : State} (h : s.phase ≠ .run) (n : Nat) : coreSteps n s = .next s := by
  induction n with
  | zero => rfl
  | succ n ih => rw [coreSteps, coreStep_rest h, andThen_next, ih]

/-- In phase RUN the turns up to the end of the samples are sample steps, one for each sample (R167). -/
theorem coreSteps_samples {s : State} {n : Nat} (hs : Legal s) (hp : s.phase = .run)
    (hn : s.idx.toNat + n ≤ s.lpad.toNat / 2) :
    ∃ t, coreSteps n s = .next t ∧ t.phase = .run ∧ t.idx.toNat = s.idx.toNat + n := by
  induction n generalizing s with
  | zero => exact ⟨s, rfl, hp, rfl⟩
  | succ n ih =>
    have hi : s.idx.toNat < s.lpad.toNat / 2 := by omega
    have hidx : (afterSample s).idx.toNat = s.idx.toNat + 1 := idx_add_one_toNat hi
    have hlpad : (afterSample s).lpad = s.lpad := rfl
    obtain ⟨t, ht, hpt, hit⟩ := ih (legal_afterSample hs hp hi) hp (by rw [hidx, hlpad]; omega)
    refine ⟨t, ?_, hpt, by omega⟩
    rw [coreSteps, coreStep_sample hp hi,
      sampleStep_next hs.lenA_le hs.lenB_le (secondIndex_lt_maxLen hs hi), andThen_next, ht]

/-! ### What a transaction reads -/

/-- Two states hold the same inputs: the lengths, the input buffers, and what an unwritten byte of them reads as. -/
def SameInputs (s t : State) : Prop :=
  t.lenA = s.lenA ∧ t.lenB = s.lenB ∧ t.bufA = s.bufA ∧ t.bufB = s.bufB ∧ t.freeTag = s.freeTag ∧
    t.resetCount = s.resetCount

/-- The mean of each sample depends on the inputs alone. -/
theorem SameInputs.meanAt_eq {s t : State} (h : SameInputs s t) (be : Bool) (i : Nat) :
    meanAt t be i = meanAt s be i := by
  obtain ⟨hla, hlb, hma, hmb, hf, hr⟩ := h
  have ha : ∀ j, padByte t .a j = padByte s .a j := padByte_congr hla hma hf hr
  have hb : ∀ j, padByte t .b j = padByte s .b j := padByte_congr hlb hmb hf hr
  simp only [meanAt, ha, hb]

/-- Which samples have their input bytes written depends on the inputs alone. -/
theorem SameInputs.sampleWritten_eq {s t : State} (h : SameInputs s t) (i : Nat) :
    sampleWritten t i = sampleWritten s i := by
  obtain ⟨hla, hlb, hma, hmb, -, -⟩ := h
  exact sampleWritten_congr hla hlb hma hmb i

/-- A transaction of the flag `be` on the inputs of `s` has reached `t`: what all its steps work from, and none
writes. -/
def TransactionOf (s : State) (be : Bool) (t : State) : Prop := SameInputs s t ∧ t.be = be ∧ t.lpad = padLen s

theorem transactionOf_startMix (s : State) (be : Bool) : TransactionOf s be (startMix be s) := by
  rw [startMix_eq]
  exact ⟨⟨rfl, rfl, rfl, rfl, rfl, rfl⟩, rfl, rfl⟩

theorem coreStep_keeps_transactionOf {s t u : State} {be : Bool} (ht : TransactionOf s be t)
    (h : coreStep t = .next u) : TransactionOf s be u := by
  rw [coreStep_frame h]
  exact ht

/-! ### The output -/

/-- The output holds the bytes of `BUF_OUT` below `LEN_OUT` (R26). -/
theorem outputBytes_getElem? (t : State) (j : Nat) :
    (outputBytes t)[j]? = if j < t.lenOut.toNat then some (readByte t .out j) else none := by
  split_ifs with h <;> simp [outputBytes, h]

/-- In an output of whole samples, the two bytes of a sample stored as `Enc` of the mean `f i` are those of `Encode`. -/
theorem outputBytes_sample_eq {t : State} {f : Nat → Int} {be : Bool} {l i : Nat} (hl : t.lenOut.toNat = l)
    (heven : l % 2 = 0)
    (h : i < l / 2 → readByte t .out (2 * i) = (encInt (f i) be).1 ∧
      readByte t .out (2 * i + 1) = (encInt (f i) be).2) :
    (outputBytes t)[2 * i]? = (encodeSeq ((List.range (l / 2)).map f) be)[2 * i]? ∧
      (outputBytes t)[2 * i + 1]? = (encodeSeq ((List.range (l / 2)).map f) be)[2 * i + 1]? := by
  rw [outputBytes_getElem?, outputBytes_getElem?, encodeSeq_getElem?_first, encodeSeq_getElem?_second, hl]
  by_cases hi : i < l / 2
  · obtain ⟨h1, h2⟩ := h hi
    rw [if_pos (by omega), if_pos (by omega), h1, h2]
    simp [hi]
  · rw [if_neg (by omega), if_neg (by omega)]
    simp [Nat.le_of_not_lt hi]

/-- Two byte sequences are equal when they agree at both bytes of every sample. -/
theorem eq_of_samples_eq {l m : List Byte} (h : ∀ i, l[2 * i]? = m[2 * i]? ∧ l[2 * i + 1]? = m[2 * i + 1]?) :
    l = m := by
  refine List.ext_getElem? fun j => ?_
  obtain ⟨i, rfl | rfl⟩ := j.even_or_odd'
  · exact (h i).1
  · exact (h i).2

/-- With the host's duty kept every sample's input bytes have been written (R227). -/
theorem sampleWritten_of_inputsWritten {s : State} (h : InputsWritten s) (i : Nat) : sampleWritten s i = true := by
  simp [sampleWritten, h .a, h .b]

/-! ### The whole transaction -/

/-- Outside RUN a MIX command is accepted (R158, R159). -/
theorem exec_mix_next {s : State} (be : Bool) (hp : s.phase ≠ .run) :
    exec (if be then .mixBe else .mixLe) s = .next (startMix be s) := by
  rw [exec_mix, mixCommand_eq, if_neg hp]

/-- The phase an accepted MIX command leaves, by the padded length (R159). -/
theorem startMix_phase_eq (be : Bool) (s : State) :
    (startMix be s).phase = if paddedLength s % 4 = 0 then .run else .fail := by
  rw [startMix_eq, padLen_toNat]
  rfl

/-- After an accepted command on a padded length that the check lets pass, `L / 2 + 1` turns of the core end in DONE,
and the samples whose input bytes have been written are encoded in `BUF_OUT` (R138, R167). -/
theorem coreSteps_startMix_done {s : State} (be : Bool) (hs : Legal s) (h4 : paddedLength s % 4 = 0) :
    ∃ t, coreSteps (paddedLength s / 2 + 1) (startMix be s) = .next t ∧ SameInputs s t ∧ t.phase = .done ∧
      t.lenOut.toNat = paddedLength s ∧
      ∀ i, i < paddedLength s / 2 → sampleWritten s i = true →
        readByte t .out (2 * i) = (encInt (meanAt s be i) be).1 ∧
          readByte t .out (2 * i + 1) = (encInt (meanAt s be i) be).2 := by
  have hL : (padLen s).toNat = paddedLength s := padLen_toNat s
  have hrun : (startMix be s).phase = .run := by rw [startMix_phase_eq, if_pos h4]
  have hidx : (startMix be s).idx.toNat = 0 := by simp [startMix_eq]
  have hlpad₀ : (startMix be s).lpad = padLen s := by rw [startMix_eq]
  obtain ⟨u, hu, hpu, hiu⟩ := coreSteps_samples (n := paddedLength s / 2) (legal_startMix hs be) hrun
    (by rw [hidx, hlpad₀, hL, Nat.zero_add])
  obtain ⟨hsame, hbe, hlpad⟩ :=
    coreSteps_keeps (fun _ _ => coreStep_keeps_transactionOf) (transactionOf_startMix s be) hu
  have hdone : SamplesDone u :=
    coreSteps_keeps (fun _ _ => coreStep_keeps_samplesDone) (samplesDone_startMix be s) hu
  rw [hidx, Nat.zero_add] at hiu
  refine ⟨finishStep u, ?_, hsame, rfl, ?_, fun i hi hw => ?_⟩
  · rw [coreSteps_succ_last, hu, andThen_next, coreStep_finish hpu (by rw [hiu, hlpad, hL])]
  · rw [← hL, ← hlpad]
    rfl
  · rw [← hsame.meanAt_eq, ← hbe]
    exact hdone hpu i (hiu.symm ▸ hi) ((hsame.sampleWritten_eq i).trans hw)

/-- Settles O58: past the length check the samples done at the last step are all of them, and `Mix` of the inputs is
the encoding of the same means; at a length the check does not pass, the core rests in FAIL. -/
theorem transactionComputesMix : Obligations.TransactionComputesMix := by
  intro s be hs hp
  rw [exec_mix_next be hp, andThen_next, mixFn_inputBytes]
  by_cases h4 : paddedLength s % 4 = 0
  · rw [if_pos h4]
    obtain ⟨t, ht, ⟨hla, hlb, hma, hmb, -, -⟩, hphase, hlen, hbytes⟩ := coreSteps_startMix_done be hs h4
    have hsample := fun i (hw : sampleWritten s i = true) =>
      outputBytes_sample_eq (f := meanAt s be) (be := be) hlen (by omega) fun hi => hbytes i hi hw
    refine ⟨t, ht, hma, hmb, hla, hlb, hphase, by rw [statusByte_eq, hphase]; rfl, ?_, hsample, fun hw =>
      eq_of_samples_eq fun i => hsample i (sampleWritten_of_inputsWritten hw i)⟩
    rw [hlen, encodeSeq_length, List.length_map, List.length_range]
    omega
  · rw [if_neg h4]
    have hfail : (startMix be s).phase = .fail := by rw [startMix_phase_eq, if_neg h4]
    obtain ⟨⟨hla, hlb, hma, hmb, -, -⟩, -, -⟩ := transactionOf_startMix s be
    exact ⟨startMix be s, coreSteps_rest (by rw [hfail]; nofun) _, hma, hmb, hla, hlb, hfail,
      by rw [statusByte_eq, hfail]; rfl, by rw [startMix_eq]⟩

end Sys2Proof.Machine
end

section
/-! The command port (43_command.md R158 to R165): what a write of `CMD` does by the fields of its word, and that a step
runs what it decodes. Then the host's accesses (R150 to R153). -/

namespace Sys2Proof.Machine

open Sys2Proof.Safety

/-! ### Commands -/

/-- Settles O4: the accepted command as one update, with the greater length as a number. -/
theorem acceptedMixCommandResult : Obligations.AcceptedMixCommandResult := by
  intro s be hp
  rw [exec_mix_next be hp, startMix_eq, padLen_toNat, padLen_eq_ofNat]
  rfl

/-- A word that decodes runs its operation (R158). -/
theorem cmdWrite_of_decodeCmd {w : Byte} {i : Instr} (h : decodeCmd w = .instr i) (s : State) :
    cmdWrite w s = exec i s := by
  rw [cmdWrite, h]

/-- A word with a bit of `RSV` set is ignored, whatever its other fields (R165). -/
theorem cmdWrite_reserved {w : Byte} (h : cmdRsv w ≠ 0) (s : State) : cmdWrite w s = .next s := by
  rw [cmdWrite, decodeCmd_reserved h]

/-- A word with `RSV` and `GO` zero is NOP (R78). -/
theorem cmdWrite_nop {w : Byte} (hr : cmdRsv w = 0) (hg : cmdGo w = false) (s : State) : cmdWrite w s = .next s :=
  cmdWrite_of_decodeCmd (by rw [decodeCmd, if_neg (not_not_intro hr), if_pos hg]) s

/-- A word with `RSV` zero and `GO` set is the MIX command of its `BE` bit (R76, R77). -/
theorem cmdWrite_mix {w : Byte} (hr : cmdRsv w = 0) (hg : cmdGo w = true) (s : State) :
    cmdWrite w s = mixCommand (cmdBe w) s := by
  rw [← exec_mix]
  apply cmdWrite_of_decodeCmd
  rw [decodeCmd, if_neg (not_not_intro hr), if_neg (by rw [hg]; decide)]
  cases cmdBe w <;> rfl

/-- A write of a command word by its fields, the tests in the order of R158. -/
theorem cmdWrite_eq (w : Byte) (s : State) :
    cmdWrite w s = .next
      (if s.phase = .run then s
      else if cmdRsv w ≠ 0 then s
      else if cmdGo w = false then s
      else startMix (cmdBe w) s) := by
  by_cases hr : cmdRsv w = 0
  · rw [if_neg (not_not_intro hr)]
    cases hg : cmdGo w with
    | false => rw [cmdWrite_nop hr hg, if_pos rfl, ite_self]
    | true => rw [cmdWrite_mix hr hg, mixCommand_eq, if_neg (c := true = false) nofun]
  · rw [cmdWrite_reserved hr, if_pos hr, ite_self]

/-- `RSV` of the low 8 bits of a value is bits 7:2 of the value (R158 test 2). -/
theorem cmdRsv_setWidth (v : BitVec 32) : cmdRsv (v.setWidth 8) = v.extractLsb' 2 6 := by
  rw [cmdRsv, BitVec.extractLsb'_setWidth_of_le (by decide)]

/-- `BE` of the low 8 bits of a value is bit 1 of the value. -/
theorem cmdBe_setWidth (v : BitVec 32) : cmdBe (v.setWidth 8) = v.getLsbD 1 := by
  simp [cmdBe]

/-- `GO` of the low 8 bits of a value is bit 0 of the value. -/
theorem cmdGo_setWidth (v : BitVec 32) : cmdGo (v.setWidth 8) = v.getLsbD 0 := by
  simp [cmdGo]

/-- Settles O6: a write of `CMD` is one of the low 8 bits, whose fields are bits of the value. -/
theorem commandWriteFollowsTests : Obligations.CommandWriteFollowsTests := fun s v => by
  rw [← cmdRsv_setWidth, ← cmdGo_setWidth, ← cmdBe_setWidth]
  exact cmdWrite_eq (v.setWidth 8) s

/-- Settles O9: in a word from 0x04 on a bit of `RSV` is set. -/
theorem reservedWordIgnored : Obligations.ReservedWordIgnored := fun s v hv =>
  cmdWrite_reserved (mt (cmdRsv_eq_zero_iff (v.setWidth 8)).mp hv.not_gt) s

/-- Settles O8: NOP's meaning has no effect, and 0x00 and 0x02 are its two words. -/
theorem nopChangesNothing : Obligations.NopChangesNothing := fun s _ =>
  ⟨rfl, cmdWrite_nop (w := 0x00) (by decide) (by decide) s, cmdWrite_nop (w := 0x02) (by decide) (by decide) s⟩

/-- Settles O57: no sample is enabled at length 0, and `Mix` of nothing is nothing. -/
theorem emptyTransaction : Obligations.EmptyTransaction := fun _ be hp ha hb =>
  have ⟨t, ht, hdone, hlen⟩ := emptyTransaction_done be hp ha hb
  ⟨t, ht, hdone, hlen, mixFn_eq [] [] be⟩

/-! ### The step at a command word -/

/-- A step takes the first turn still to come. -/
theorem step_cons {s : State} {t : Turn} {rest : List Turn} (h : s.pending = t :: rest) :
    step s = runTurn t (s.setPending rest) := by
  rw [step, nextTurn, h]

/-- With no turn still to come a step is the core's. -/
theorem step_nil {s : State} (h : s.pending = []) : step s = coreStep s := by
  rw [step, nextTurn, h]

/-- Settles O30: the turn is a write of the low 8 bits to `CMD`. -/
theorem stepRunsDecodedCommand : Obligations.StepRunsDecodedCommand := fun s v rest _ hpend hdec =>
  (step_cons hpend).trans (cmdWrite_of_decodeCmd (w := v.setWidth 8) hdec (s.setPending rest))

/-- An 8-bit word of the opcode table that stands for an operation is a command word that decodes to it. -/
theorem decodeCmd_of_decodeTableWord {w : Nat} {i : Instr} (h : decodeTableWord 8 w = some i) :
    decodeCmd (BitVec.ofNat 8 w) = .instr i := by
  simp only [decodeTableWord, Nat.lt_irrefl, if_false] at h
  split_ifs at h
  split at h
  · cases h
    assumption
  · cases h

/-- Settles O32: the word is placed as the host's next turn, a write of it to `CMD`, and no other turn is lost. -/
theorem placedWordRuns : Obligations.PlacedWordRuns := by
  intro s w i h
  have hpend : (s.withFetchWord 8 w).pending = .host (.wrr 0 (BitVec.ofNat 32 w)) :: s.pending := rfl
  have hword : (BitVec.ofNat 32 w).setWidth 8 = BitVec.ofNat 8 w := BitVec.setWidth_ofNat_of_le (by decide) w
  refine stepRunsDecodedCommand _ _ _ i hpend ?_
  rw [hword]
  exact decodeCmd_of_decodeTableWord h

/-- Settles O31: the stages of R162 in order, with what follows them read off the state they leave. -/
theorem stepRunsDecodedStages : Obligations.StepRunsDecodedStages := by
  intro s hpend hp hi
  rw [step_nil hpend, coreStep_sample hp hi]
  simp only [sampleStep, sampleSlots, runSlots, andThen_assoc, andThen_next, State.setIdx, State.bumpStamp,
    freeUnwrittenSample_outStamp]

/-! ### Registers and bytes -/

/-- BUSY is set exactly in phase RUN (R12). -/
theorem busyFlag_iff (s : State) : busyFlag s = true ↔ s.phase = .run := beq_iff_eq

/-- Settles O34: each of the five registers has its value, and the read adds it to the values read. -/
theorem registerReads : Obligations.RegisterReads := fun _ => ⟨rfl, rfl, rfl, rfl, rfl⟩

/-- Outside RUN a length within the capacity is written (R13, R14). -/
theorem writeLen_next {s : State} (lane : Lane) {v : Len} (hp : s.phase ≠ .run) (hv : v.toNat ≤ s.maxLen.toNat) :
    writeLen lane v s = .next (s.setLen lane v) := by
  rw [writeLen, if_neg (mt (busyFlag_iff s).mp hp), if_neg (BitVec.not_lt.mpr hv)]

/-- Settles O35: `CMD` is the command port, `STATUS` and `LEN_OUT` ignore a write, and a length is written alone. -/
theorem registerWrites : Obligations.RegisterWrites := fun _ _ =>
  ⟨rfl, rfl, rfl, fun hp hv => ⟨writeLen_next .a hp hv, writeLen_next .b hp hv⟩⟩

/-- A write to `OUT` within the capacity is ignored (R152). -/
theorem writeByte_out {s : State} {i : Nat} (v : Byte) (h : i < s.maxLen.toNat) : writeByte .out i v s = .next s := by
  rw [writeByte, if_neg h.not_ge, if_pos rfl]

/-- Outside RUN a byte of an input within the capacity is written (R152). -/
theorem writeByte_input {s : State} (lane : Lane) {i : Nat} (v : Byte) (hp : s.phase ≠ .run)
    (h : i < s.maxLen.toNat) : writeByte lane.space i v s = .next (memWrite s lane.space i v) := by
  have hout : lane.space ≠ .out := by cases lane <;> nofun
  rw [writeByte, if_neg h.not_ge, if_neg hout, if_neg (mt (busyFlag_iff s).mp hp)]

/-- Settles O36: the write goes to one index of one space, and no byte of another index or space is written. -/
theorem byteWrites : Obligations.ByteWrites := by
  refine fun s i v hi => ⟨writeByte_out v hi, fun lane hp => ⟨_, writeByte_input lane v hp hi, ?_,
    readByte_memWrite_same _ _ _ _, fun sp j hj => ?_⟩⟩
  · cases lane <;> rfl
  · by_cases hsp : sp = lane.space
    · subst hsp
      exact readByte_memWrite_other _ _ _ (hj.resolve_left (not_not_intro rfl))
    · exact readByte_memWrite_space _ _ _ _ hsp

/-- A read of a byte within the capacity adds it to the values read (R153). -/
theorem hostReadByte_next {s : State} (sp : Space) {i : Nat} (h : i < s.maxLen.toNat) :
    hostReadByte sp i s = .next (s.pushRead (.byte (hostByte sp i s))) := by
  rw [hostReadByte, if_neg h.not_ge]

/-- What a read returns where it is an input byte or output (R153). -/
theorem hostByte_eq_readByte {s : State} {sp : Space} {i : Nat}
    (h : sp ≠ .out ∨ (s.phase = .done ∧ i < s.lenOut.toNat)) : hostByte sp i s = readByte s sp i := by
  rw [hostByte, if_neg (by tauto)]

/-- Settles O37: the byte depends on nothing that a read changes. -/
theorem byteReads : Obligations.ByteReads := fun _ sp _ hi =>
  ⟨_, hostReadByte_next sp hi, hostByte_eq_readByte, hostReadByte_next sp hi⟩

end Sys2Proof.Machine
end

section
/-! The function `Mix` (43_command.md R170, R175 to R177): its length, its bytes, its symmetry, and silence. -/

namespace Sys2Proof.Machine

/-- Settles O54: the two cases of `Mix`, and two bytes for each of the means. -/
theorem mixLength : Obligations.MixLength := by
  intro a b be
  rw [mixFn_eq]
  by_cases h4 : max a.length b.length % 4 = 0
  · rw [if_pos h4]
    refine ⟨iff_of_false nofun (not_not_intro h4), fun o ho => ?_⟩
    cases ho
    rw [encodeSeq_length, List.length_map, List.length_range]
    omega
  · rw [if_neg h4]
    exact ⟨iff_of_true rfl h4, nofun⟩

/-- Settles O53: an output is the encoding of the mean of each sample of the padded inputs. -/
theorem mixSpelledOut : Obligations.MixSpelledOut := by
  intro a b be o ho
  obtain ⟨-, hlength⟩ := mixLength a b be
  obtain ⟨hlen, -, -⟩ := hlength o ho
  refine ⟨hlen, fun i hi => ?_⟩
  rw [mixFn_eq] at ho
  split_ifs at ho
  cases ho
  rw [encodeSeq_getElem?_first, encodeSeq_getElem?_second, List.getElem?_map, List.getElem?_range hi]
  exact ⟨rfl, rfl⟩

theorem avg_comm (a b : Int) : avg a b = avg b a := by
  rw [avg, avg, Int.add_comm]

/-- Settles O55: the padded length is symmetric and the mean of two numbers is commutative. -/
theorem mixSymmetric : Obligations.MixSymmetric := by
  intro a b be
  have hmean : mixAt a b be = mixAt b a be := funext fun _ => avg_comm _ _
  rw [mixFn_eq, mixFn_eq, max_comm, hmean]

/-- Zero bytes decode to silence, within the sequence and beyond it. -/
theorem sampleAt_zeros (be : Bool) (n i : Nat) : sampleAt be (List.replicate n 0) i = 0 := by
  have hzero : ∀ j, (List.replicate n (0 : Byte)).getD j 0 = 0 := fun j => by
    rw [List.getD_eq_getElem?_getD, List.getElem?_getD_replicate_default_eq]
  rw [sampleAt, hzero, hzero, dec_pad_pad]

/-- The mean with silence is the half rounded down. -/
theorem mixAt_zeros (a : List Byte) (be : Bool) (n i : Nat) :
    mixAt a (List.replicate n 0) be i = (sampleAt be a i).toInt / 2 := by
  rw [mixAt, sampleAt_zeros, avg, BitVec.ofNat_eq_ofNat, BitVec.toInt_zero, Int.add_zero]

/-- Settles O56: the padded length is that of the first input, and each mean is with silence. -/
theorem mixWithSilence : Obligations.MixWithSilence := by
  intro a be n h4 hn
  have hmax : max a.length (List.replicate n (0 : Byte)).length = a.length := by simp [hn]
  rw [mixFn_eq, hmax, if_pos h4, decodePairs_eq_map, List.map_map]
  congr 3
  exact funext (mixAt_zeros a be n)

end Sys2Proof.Machine
end

section
/-! The core's steps (43_command.md R162, R163), the number of them in a transaction (R167), and what a transaction's
result depends on (R171). -/

namespace Sys2Proof.Machine

open Sys2Proof.Safety

/-! ### One step -/

/-- When the sample step is enabled (R162). -/
theorem sampleEnabled_iff (s : State) : sampleEnabled s = true ↔ s.phase = .run ∧ s.idx.toNat < s.lpad.toNat / 2 := by
  simp [sampleEnabled, busyFlag_iff]

/-- When the finish step is enabled (R163). -/
theorem finishEnabled_iff (s : State) : finishEnabled s = true ↔ s.phase = .run ∧ s.idx.toNat = s.lpad.toNat / 2 := by
  simp [finishEnabled, busyFlag_iff]

/-- From a state that keeps R29 an enabled sample step completes (R50, R162). -/
theorem coreStep_afterSample {s : State} (hs : Legal s) (hp : s.phase = .run) (hi : s.idx.toNat < s.lpad.toNat / 2) :
    coreStep s = .next (afterSample s) :=
  (coreStep_sample hp hi).trans (sampleStep_next hs.lenA_le hs.lenB_le (secondIndex_lt_maxLen hs hi))

/-- Settles O26: the state `afterSample`, with its accumulator and its output bytes as the mean. -/
theorem sampleStepResult : Obligations.SampleStepResult := by
  refine ⟨sampleEnabled_iff, fun s hs hp hi => ?_⟩
  refine ⟨afterSample s, coreStep_afterSample hs hp hi, rfl, rfl, afterMix_acc_toInt (afterDes s),
    afterMix_so_toInt (afterDes s), fun hw => ?_, fun i h1 h2 => readByte_afterSample_other s h1 h2,
    idx_add_one_toNat hi, rfl⟩
  have hmean : encInt (meanAt s s.be s.idx.toNat) s.be = enc (mixedSample s) s.be := by
    rw [encInt, ← mixedSample_eq]
  exact ⟨(readByte_afterSample_first hw).trans (congrArg Prod.fst hmean.symm),
    (readByte_afterSample_second hw).trans (congrArg Prod.snd hmean.symm)⟩

/-- Settles O27: after the finish step the phase is DONE, in which the core rests. -/
theorem finishStepResult : Obligations.FinishStepResult :=
  ⟨finishEnabled_iff, fun s hp hi => ⟨finishStep s, coreStep_finish hp hi, rfl, rfl, rfl, coreStep_rest nofun⟩⟩

/-! ### The steps of a transaction -/

/-- Sample steps and the one finish step end a transaction in DONE, with the padded length as the output's (R167). -/
theorem coreSteps_done {s : State} (hs : Legal s) (hp : s.phase = .run) :
    ∃ t, coreSteps (s.lpad.toNat / 2 - s.idx.toNat + 1) s = .next t ∧ t.phase = .done ∧ t.lenOut = s.lpad := by
  obtain ⟨-, -, hidx, -⟩ := hs.run hp
  obtain ⟨u, hu, hpu, hiu⟩ := coreSteps_samples (n := s.lpad.toNat / 2 - s.idx.toNat) hs hp (by omega)
  have hlpad : u.lpad = s.lpad := by
    refine coreSteps_keeps (P := fun t => t.lpad = s.lpad) (fun t v ht h => ?_) rfl hu
    rw [coreStep_frame h, ← ht]
  refine ⟨finishStep u, ?_, rfl, hlpad⟩
  rw [coreSteps_succ_last, hu, andThen_next, coreStep_finish hpu (by rw [hiu, hlpad]; omega)]

/-- Settles O28: `IDX` is below `LPAD / 2` or there, and each sample step brings it one nearer. -/
theorem transactionTerminates : Obligations.TransactionTerminates := by
  intro s hs hp
  obtain ⟨-, -, hidx, -⟩ := hs.run hp
  refine ⟨fun h => ?_, fun k hk => coreSteps_samples hs hp (by omega), coreSteps_done hs hp⟩
  have hiff : s.idx.toNat < s.lpad.toNat / 2 ↔ s.idx.toNat = s.lpad.toNat / 2 := by
    simpa [hp] using (sampleEnabled_iff s).symm.trans ((Bool.eq_iff_iff.mp h).trans (finishEnabled_iff s))
  omega

/-! ### What the result depends on -/

/-- Settles O59: each of the two results is told from `Mix` of the inputs, and the inputs are the same. -/
theorem transactionIsFunctionOfInputs : Obligations.TransactionIsFunctionOfInputs := by
  intro s u be hs hu hps hpu ha hb
  obtain ⟨t, ht, -, -, -, -, hres_t⟩ := transactionComputesMix s be hs hps
  obtain ⟨v, hv, -, -, -, -, hres_v⟩ := transactionComputesMix u be hu hpu
  refine ⟨t, v, ht, hv, ?_⟩
  rw [ha, hb] at hres_t
  cases hmix : mixFn (inputBytes u .a) (inputBytes u .b) be with
  | some o =>
    rw [hmix] at hres_t hres_v
    obtain ⟨hdone, hstatus, hlen, hsample, hall⟩ := hres_t
    obtain ⟨hdone', hstatus', hlen', hsample', hall'⟩ := hres_v
    refine ⟨hdone.trans hdone'.symm, hstatus.trans hstatus'.symm, BitVec.eq_of_toNat_eq (hlen.trans hlen'.symm),
      fun i hw hw' => ?_, fun hw hw' => (hall hw).trans (hall' hw').symm⟩
    obtain ⟨h1, h2⟩ := hsample i hw
    obtain ⟨h1', h2'⟩ := hsample' i hw'
    exact ⟨h1.trans h1'.symm, h2.trans h2'.symm⟩
  | none =>
    rw [hmix] at hres_t hres_v
    obtain ⟨hfail, hstatus, hlen⟩ := hres_t
    obtain ⟨hfail', hstatus', hlen'⟩ := hres_v
    have hempty : ∀ {w : State}, w.lenOut = 0 → outputBytes w = [] := fun h => by rw [outputBytes, h]; rfl
    rw [hempty hlen, hempty hlen']
    exact ⟨hfail.trans hfail'.symm, hstatus.trans hstatus'.symm, hlen.trans hlen'.symm, fun _ _ _ => ⟨rfl, rfl⟩,
      fun _ _ => rfl⟩

end Sys2Proof.Machine
end

section
/-! Sequences of turns: `WAIT` ends (43_command.md R156), and the calling sequence returns `Mix` of its two arguments
(R179). -/

namespace Sys2Proof.Machine

open Sys2Proof.Safety

/-! ### Steps, and the turns to come -/

/-- Some number of steps leads from one state to another. -/
abbrev Reaches : State → State → Prop := Relation.ReflTransGen fun s t => step s = .next t

/-- What is reached is reached in some number of steps. -/
theorem steps_of_reaches {s t : State} (h : Reaches s t) : ∃ n, steps n s = .next t := by
  induction h using Relation.ReflTransGen.head_induction_on with
  | refl => exact ⟨0, rfl⟩
  | head hstep _ ih =>
    obtain ⟨n, hn⟩ := ih
    exact ⟨n + 1, by rw [steps, hstep, andThen_next, hn]⟩

/-- The block of a state with other values read and other turns to come. -/
def State.withTurns (s : State) (r : List ReadValue) (p : List Turn) : State := { s with reads := r, pending := p }

/-- A state is its block with its values read and its turns to come. -/
theorem eq_withTurns {s : State} {p : List Turn} (h : s.pending = p) : s = s.withTurns s.reads p := by
  rw [← h]
  rfl

/-- A step takes the first turn to come. -/
theorem reaches_turn {s t : State} {r : List ReadValue} {x : Turn} {p : List Turn}
    (h : runTurn x (s.withTurns r p) = .next t) : Reaches (s.withTurns r (x :: p)) t := .single h

/-- What the core's turn does to the block depends on the block alone. -/
theorem coreStep_withTurns {s t : State} (hs : Legal s) (h : coreStep s = .next t) (r : List ReadValue)
    (p : List Turn) : coreStep (s.withTurns r p) = .next (t.withTurns r p) := by
  obtain ⟨hp, hi, hsample⟩ | ⟨hp, hi, rfl⟩ | ⟨hrest, rfl⟩ := coreStep_cases h
  · obtain rfl := sampleStep_inv hsample
    exact coreStep_afterSample (legal_of_inputs_turns hs _ _ r p) hp hi
  · exact coreStep_finish (s := s.withTurns r p) hp hi
  · have hp : t.phase ≠ .run := fun hp => by
      obtain ⟨-, -, hidx, -⟩ := hs.run hp
      exact hrest ⟨hp, hidx⟩
    exact coreStep_rest (s := t.withTurns r p) hp

/-! ### `WAIT` -/

/-- `WAIT` polls `STATUS` and is over where it finds BUSY clear. -/
theorem reaches_wait_free {s : State} (hp : s.phase ≠ .run) (r : List ReadValue) (p : List Turn) :
    Reaches (s.withTurns r (.host .wait :: p)) (s.withTurns (r ++ [.byte (statusByte s)]) p) := by
  have hbusy : ¬ busyFlag (s.withTurns r p) = true := mt (busyFlag_iff _).mp hp
  refine reaches_turn (congrArg Host.Outcome.next ?_)
  rw [if_neg hbusy]
  rfl

/-- Where `WAIT` finds BUSY set it gives the core its turn and waits on (log entry 17). -/
theorem reaches_wait_busy {s t : State} (hs : Legal s) (hp : s.phase = .run) (h : coreStep s = .next t)
    (r : List ReadValue) (p : List Turn) :
    Reaches (s.withTurns r (.host .wait :: p))
      (t.withTurns (r ++ [.byte (statusByte s)]) (.host .wait :: p)) := by
  have hbusy : busyFlag (s.withTurns r p) = true := (busyFlag_iff _).mpr hp
  have hpoll : Reaches (s.withTurns r (.host .wait :: p))
      (s.withTurns (r ++ [.byte (statusByte s)]) (.core :: .host .wait :: p)) := by
    refine reaches_turn (congrArg Host.Outcome.next ?_)
    rw [if_pos hbusy]
    rfl
  exact hpoll.trans (reaches_turn (coreStep_withTurns hs h _ _))

/-- While `WAIT` polls, the core takes the turns that end the transaction, and `WAIT` ends with it. -/
theorem reaches_wait {n : Nat} {s t : State} (hs : Legal s) (h : coreSteps n s = .next t) (ht : t.phase ≠ .run)
    (r : List ReadValue) (p : List Turn) :
    ∃ polls, Reaches (s.withTurns r (.host .wait :: p)) (t.withTurns (r ++ polls) p) := by
  induction n generalizing s r with
  | zero =>
    cases h
    exact ⟨_, reaches_wait_free ht r p⟩
  | succ n ih =>
    by_cases hp : s.phase = .run
    · obtain ⟨u, hu, h⟩ := andThen_eq_next.mp h
      obtain ⟨polls, hpolls⟩ := ih (coreStep_keeps_legal hs hu) h (r ++ [.byte (statusByte s)])
      rw [List.append_assoc] at hpolls
      exact ⟨_, (reaches_wait_busy hs hp hu r p).trans hpolls⟩
    · cases (coreSteps_rest hp (n + 1)).symm.trans h
      exact ⟨_, reaches_wait_free hp r p⟩

/-- Some number of turns of the core leads out of RUN (R167). -/
theorem coreSteps_leaves_run {s : State} (hs : Legal s) : ∃ n t, coreSteps n s = .next t ∧ t.phase ≠ .run := by
  by_cases hp : s.phase = .run
  · obtain ⟨t, ht, hdone, -⟩ := coreSteps_done hs hp
    exact ⟨_, t, ht, by rw [hdone]; nofun⟩
  · exact ⟨0, s, rfl, hp⟩

/-- Settles O41: the core ends the transaction in the turns that `WAIT` gives it. -/
theorem waitEnds : Obligations.WaitEnds := by
  intro s rest hs hpend
  obtain ⟨k, t, ht, hp⟩ := coreSteps_leaves_run hs
  obtain ⟨polls, hreach⟩ := reaches_wait hs ht hp s.reads rest
  rw [← eq_withTurns hpend] at hreach
  obtain ⟨n, hn⟩ := steps_of_reaches hreach
  exact ⟨n, _, hn, rfl, hp⟩

/-! ### Loading an input -/

/-- A memory with bytes written one after the other from an index on. -/
def memLoad : Memory → Nat → List Byte → Memory
  | m, _, [] => m
  | m, i, v :: vs => memLoad (memInsert m i v) (i + 1) vs

/-- The bytes below the first index stand. -/
theorem memFind_memLoad_below (vs : List Byte) (m : Memory) {i j : Nat} (h : j < i) :
    memFind (memLoad m i vs) j = memFind m j := by
  induction vs generalizing m i with
  | nil => rfl
  | cons v vs ih => rw [memLoad, ih _ (h.trans (Nat.lt_succ_self i)), memFind_memInsert_other _ _ h.ne]

/-- Each byte loaded is found at its index. -/
theorem memFind_memLoad (vs : List Byte) (m : Memory) (i : Nat) {k : Nat} (h : k < vs.length) :
    memFind (memLoad m i vs) (i + k) = vs[k]? := by
  induction vs generalizing m i k with
  | nil => exact absurd h (Nat.not_lt_zero k)
  | cons v vs ih =>
    cases k with
    | zero => exact (memFind_memLoad_below vs _ (Nat.lt_succ_self i)).trans (memFind_memInsert_same m i v)
    | succ k =>
      rw [List.getElem?_cons_succ, ← ih (memInsert m i v) (i + 1) (Nat.lt_of_succ_lt_succ h), memLoad,
        Nat.add_right_comm, Nat.add_assoc]

/-- The byte writes of a load, from a state outside RUN. -/
theorem reaches_loadBytes (lane : Lane) (vs : List Byte) {s : State} {i : Nat} (hp : s.phase ≠ .run)
    (hi : i + vs.length ≤ s.maxLen.toNat) (r : List ReadValue) (p : List Turn) :
    Reaches (s.withTurns r (loadBytes lane.space i vs ++ p))
      ((s.setBuf lane.space (memLoad (s.buf lane.space) i vs)).withTurns r p) := by
  induction vs generalizing s i with
  | nil =>
    have hsame : s.setBuf lane.space (s.buf lane.space) = s := by cases lane <;> rfl
    rw [memLoad, hsame]
    exact .refl
  | cons v vs ih =>
    have hlen : i + 1 + vs.length ≤ s.maxLen.toNat := by
      rw [List.length_cons] at hi
      omega
    have hwrite := writeByte_input (s := s.withTurns r (loadBytes lane.space (i + 1) vs ++ p)) lane v hp
      (i := i) (show i < s.maxLen.toNat by omega)
    have hrest := ih (s := memWrite s lane.space i v) (i := i + 1) (by rwa [memWrite, State.setBuf_phase])
      (by rwa [memWrite_maxLen])
    refine (reaches_turn (x := .host (.wrb lane.space i v)) hwrite).trans ?_
    cases lane <;> exact hrest

/-- The state after `LDA` or `LDB` (R154, R155). -/
def afterLoad (lane : Lane) (bytes : List Byte) (s : State) : State :=
  (s.setBuf lane.space (memLoad (s.buf lane.space) 0 bytes)).setLen lane (BitVec.ofNat 32 bytes.length)

/-- A length within the capacity is a 32-bit length. -/
theorem ofNat_length_toNat {bytes : List Byte} {n : Len} (h : bytes.length ≤ n.toNat) :
    (BitVec.ofNat 32 bytes.length).toNat = bytes.length :=
  Nat.mod_eq_of_lt (h.trans_lt n.isLt)

/-- A number of bytes within the capacity is within it as a length. -/
theorem ofNat_length_le {bytes : List Byte} {n : Len} (h : bytes.length ≤ n.toNat) :
    BitVec.ofNat 32 bytes.length ≤ n := by
  rwa [BitVec.le_def, ofNat_length_toNat h]

/-- The turns of a load that fits: the bytes, then the length. -/
theorem reaches_load (lane : Lane) {bytes : List Byte} {s : State} (hp : s.phase ≠ .run)
    (hlen : bytes.length ≤ s.maxLen.toNat) (r : List ReadValue) (p : List Turn) :
    Reaches (s.withTurns r (loadTurns lane bytes ++ p)) ((afterLoad lane bytes s).withTurns r p) := by
  rw [loadTurns, List.append_assoc]
  refine (reaches_loadBytes lane bytes hp (by omega) r _).trans (reaches_turn ?_)
  have hle : (BitVec.ofNat 32 bytes.length).toNat ≤ s.maxLen.toNat := ofNat_length_le hlen
  cases lane with
  | a => exact writeLen_next .a hp hle
  | b => exact writeLen_next .b hp hle

/-- A load that fits keeps R29. -/
theorem legal_afterLoad (lane : Lane) {bytes : List Byte} {s : State} (hs : Legal s) (hp : s.phase ≠ .run)
    (hlen : bytes.length ≤ s.maxLen.toNat) : Legal (afterLoad lane bytes s) := by
  refine legal_setLen ?_ (by rwa [State.setBuf_phase]) lane ?_
  · cases lane <;> exact legal_of_inputs_turns hs _ _ s.reads s.pending
  · rw [State.setBuf_maxLen]
    exact ofNat_length_le hlen

/-- A lane's input is these bytes, each of them written. -/
def HoldsInput (s : State) (lane : Lane) (bytes : List Byte) : Prop :=
  (s.laneLen lane).toNat = bytes.length ∧ ∀ j, j < bytes.length → memFind (s.buf lane.space) j = bytes[j]?

/-- A load makes its bytes the lane's input (R154, R155). -/
theorem holdsInput_afterLoad (lane : Lane) {bytes : List Byte} {s : State} (hlen : bytes.length ≤ s.maxLen.toNat) :
    HoldsInput (afterLoad lane bytes s) lane bytes := by
  have hfind : ∀ m j, j < bytes.length → memFind (memLoad m 0 bytes) j = bytes[j]? := fun m j hj => by
    simpa using memFind_memLoad bytes m 0 hj
  cases lane with
  | a => exact ⟨ofNat_length_toNat hlen, hfind s.bufA⟩
  | b => exact ⟨ofNat_length_toNat hlen, hfind s.bufB⟩

/-- A lane's input depends on its length and its buffer alone. -/
theorem HoldsInput.of_same {s t : State} {lane : Lane} {bytes : List Byte} (h : HoldsInput s lane bytes)
    (hl : t.laneLen lane = s.laneLen lane) (hb : t.buf lane.space = s.buf lane.space) :
    HoldsInput t lane bytes := by
  rwa [HoldsInput, hl, hb]

/-- The input as the model reads it. -/
theorem HoldsInput.inputBytes_eq {s : State} {lane : Lane} {bytes : List Byte} (h : HoldsInput s lane bytes) :
    inputBytes s lane = bytes := by
  obtain ⟨hlen, hfind⟩ := h
  refine List.ext_getElem (by rw [inputBytes_length, hlen]) fun j _ hj => ?_
  simp [inputBytes, readByte, hfind j hj, hj]

/-- Every byte of a loaded lane has a value the spec gives (R227). -/
theorem HoldsInput.byteWritten {s : State} {lane : Lane} {bytes : List Byte} (h : HoldsInput s lane bytes) (j : Nat) :
    byteWritten s lane j = true := by
  obtain ⟨hlen, hfind⟩ := h
  obtain hj | hj := lt_or_ge j bytes.length
  · simp [Machine.byteWritten, hfind j hj, hj]
  · simp [Machine.byteWritten, hlen, hj]

/-! ### The call -/

/-- The command port in a call: the word is that of an accepted MIX command with the flag `be` (R76, R77). -/
theorem reaches_mix {s : State} (be : Bool) (hp : s.phase ≠ .run) (r : List ReadValue) (p : List Turn) :
    Reaches (s.withTurns r (.host (.wrr 0 ((cmdWord be true).setWidth 32)) :: p)) ((startMix be s).withTurns r p) := by
  have hdec : decodeCmd (((cmdWord be true).setWidth 32).setWidth 8) = .instr (if be then .mixBe else .mixLe) := by
    cases be <;> decide
  refine reaches_turn ((cmdWrite_of_decodeCmd hdec _).trans ?_)
  rw [exec_mix_next (s := s.withTurns r p) be hp, startMix_eq, startMix_eq]
  rfl

/-- The state in which a call gives its command: both inputs loaded. -/
def afterLoads (a b : List Byte) (s : State) : State := afterLoad .b b (afterLoad .a a s)

/-- A call up to its `WAIT` (R179 steps 1 to 4). -/
theorem reaches_call {s : State} {a b : List Byte} (be : Bool) (hp : s.phase ≠ .run)
    (ha : a.length ≤ s.maxLen.toNat) (hb : b.length ≤ s.maxLen.toNat) (r : List ReadValue) :
    Reaches (s.withTurns r [.host (.call a b be)])
      ((startMix be (afterLoads a b s)).withTurns r [.host .wait, .host .result]) :=
  calc Reaches (s.withTurns r [.host (.call a b be)]) (s.withTurns r (callTurns a b be)) := reaches_turn rfl
    Reaches _ (s.withTurns r (loadTurns .a a ++ _)) := reaches_turn rfl
    Reaches _ ((afterLoad .a a s).withTurns r _) := reaches_load .a hp ha r _
    Reaches _ ((afterLoad .a a s).withTurns r (loadTurns .b b ++ _)) := reaches_turn rfl
    Reaches _ ((afterLoads a b s).withTurns r _) := reaches_load (s := afterLoad .a a s) .b hp hb r _
    Reaches _ ((startMix be (afterLoads a b s)).withTurns r _) := reaches_mix (s := afterLoads a b s) be hp r _

/-- DONE is set exactly in phase DONE (R12). -/
theorem doneFlag_iff (s : State) : doneFlag s = true ↔ s.phase = .done := beq_iff_eq

/-- The reads of output bytes in phase DONE, each of which returns what `BUF_OUT` holds. -/
theorem reaches_readOut {s : State} (hp : s.phase = .done) (hlen : s.lenOut.toNat ≤ s.maxLen.toNat) (l : List Nat)
    (hl : ∀ i ∈ l, i < s.lenOut.toNat) (r : List ReadValue) (p : List Turn) :
    Reaches (s.withTurns r (l.map (fun i => .host (.rdb .out i)) ++ p))
      (s.withTurns (r ++ l.map fun i => .byte (readByte s .out i)) p) := by
  induction l generalizing r with
  | nil =>
    rw [List.map_nil, List.map_nil, List.append_nil]
    exact .refl
  | cons i l ih =>
    obtain ⟨hi, hl⟩ := List.forall_mem_cons.mp hl
    have hread : Reaches (s.withTurns r (.host (.rdb .out i) :: (l.map (fun i => .host (.rdb .out i)) ++ p)))
        (s.withTurns (r ++ [.byte (readByte s .out i)]) (l.map (fun i => .host (.rdb .out i)) ++ p)) := by
      refine reaches_turn ((hostReadByte_next (s := s.withTurns r _) .out (hi.trans_le hlen)).trans ?_)
      rw [hostByte_eq_readByte (s := s.withTurns r _) (.inr ⟨hp, hi⟩)]
      rfl
    rw [List.map_cons, List.map_cons, List.append_cons r]
    exact hread.trans (ih hl _)

/-- The end of a call in phase DONE: `STATUS`, the output length and the output are read (R179 steps 6 and 7). -/
theorem reaches_result_done {s : State} (hp : s.phase = .done) (hlen : s.lenOut.toNat ≤ s.maxLen.toNat)
    (r : List ReadValue) :
    Reaches (s.withTurns r [.host .result])
      (s.withTurns (r ++ [.byte 0x02, .word s.lenOut] ++ (outputBytes s).map .byte) []) := by
  have hdone : doneFlag (s.withTurns r []) = true := (doneFlag_iff _).mpr hp
  have hstatus : statusByte s = 0x02 := by
    rw [statusByte_eq, hp]
    rfl
  have hresult : Reaches (s.withTurns r [.host .result]) (s.withTurns (r ++ [.byte (statusByte s)]) [.host .rdo]) := by
    refine reaches_turn (congrArg Host.Outcome.next ?_)
    rw [if_pos hdone]
    rfl
  have hrdo : Reaches (s.withTurns (r ++ [.byte (statusByte s)]) [.host .rdo])
      (s.withTurns (r ++ [.byte (statusByte s)] ++ [.word s.lenOut]) (readOutTurns s.lenOut.toNat ++ [])) :=
    reaches_turn rfl
  have hbytes := reaches_readOut hp hlen (List.range s.lenOut.toNat) (fun _ => List.mem_range.mp)
    (r ++ [.byte (statusByte s)] ++ [.word s.lenOut]) []
  have hall := (hresult.trans hrdo).trans hbytes
  rw [hstatus, List.append_assoc r] at hall
  rw [outputBytes, List.map_map]
  exact hall

/-- The end of a call in phase FAIL: `STATUS` is read and nothing else. -/
theorem reaches_result_fail {s : State} (hp : s.phase = .fail) (r : List ReadValue) :
    Reaches (s.withTurns r [.host .result]) (s.withTurns (r ++ [.byte 0x04]) []) := by
  have hp' : s.phase ≠ .done := by
    rw [hp]
    nofun
  have hdone : ¬ doneFlag (s.withTurns r []) = true := mt (doneFlag_iff _).mp hp'
  have hstatus : Phase.fail.status = 0x04 := rfl
  refine reaches_turn (congrArg Host.Outcome.next ?_)
  rw [if_neg hdone, ← hstatus, ← hp, ← statusByte_eq]
  rfl

/-- What a transaction with the result `m` of `Mix` leaves: the output in DONE, or FAIL on the error (R170). -/
def LeavesMix (t : State) : Option (List Byte) → Prop
  | some o => t.phase = .done ∧ t.lenOut.toNat = o.length ∧ outputBytes t = o
  | none => t.phase = .fail ∧ t.lenOut = 0

/-- With a result the transaction is over (R231). -/
theorem LeavesMix.phase_ne_run {t : State} {m : Option (List Byte)} (h : LeavesMix t m) : t.phase ≠ .run := by
  cases m with
  | some o =>
    obtain ⟨hdone, -⟩ := h
    rw [hdone]
    nofun
  | none =>
    obtain ⟨hfail, -⟩ := h
    rw [hfail]
    nofun

/-- With every input byte written a transaction leaves `Mix` of its two inputs, and the inputs as loaded. -/
theorem transaction_leavesMix {s : State} {a b : List Byte} (be : Bool) (hs : Legal s) (hp : s.phase ≠ .run)
    (ha : HoldsInput s .a a) (hb : HoldsInput s .b b) :
    ∃ n t, coreSteps n (startMix be s) = .next t ∧ inputBytes t .a = a ∧ inputBytes t .b = b ∧
      LeavesMix t (mixFn a b be) := by
  have hwritten : InputsWritten s
    | .a => ha.byteWritten
    | .b => hb.byteWritten
  obtain ⟨t, ht, hma, hmb, hla, hlb, hres⟩ := transactionComputesMix s be hs hp
  rw [exec_mix_next be hp, andThen_next] at ht
  rw [ha.inputBytes_eq, hb.inputBytes_eq] at hres
  refine ⟨_, t, ht, (ha.of_same hla hma).inputBytes_eq, (hb.of_same hlb hmb).inputBytes_eq, ?_⟩
  cases hmix : mixFn a b be with
  | some o =>
    rw [hmix] at hres
    obtain ⟨hdone, -, hlen, -, hout⟩ := hres
    exact ⟨hdone, hlen, hout hwritten⟩
  | none =>
    rw [hmix] at hres
    obtain ⟨hfail, -, hlen⟩ := hres
    exact ⟨hfail, hlen⟩

/-- A call up to its end (R179 steps 1 to 5): the transaction is over, and only `STATUS` has been read. -/
theorem reaches_call_end {s : State} {a b : List Byte} {be : Bool} (hs : Legal s) (hp : s.phase ≠ .run)
    (hpend : s.pending = [.host (.call a b be)]) (ha : a.length ≤ s.maxLen.toNat) (hb : b.length ≤ s.maxLen.toNat) :
    ∃ t polls, Reaches s (t.withTurns (s.reads ++ polls) [.host .result]) ∧ Legal t ∧ inputBytes t .a = a ∧
      inputBytes t .b = b ∧ LeavesMix t (mixFn a b be) := by
  have hloaded : Legal (afterLoads a b s) := legal_afterLoad .b (legal_afterLoad .a hs hp ha) hp hb
  have hstart : Legal (startMix be (afterLoads a b s)) := legal_startMix hloaded be
  have hholds_a : HoldsInput (afterLoads a b s) .a a := holdsInput_afterLoad .a ha
  obtain ⟨n, t, ht, hta, htb, hmix⟩ := transaction_leavesMix be hloaded hp hholds_a (holdsInput_afterLoad .b hb)
  obtain ⟨polls, hwait⟩ := reaches_wait hstart ht hmix.phase_ne_run s.reads [.host .result]
  refine ⟨t, polls, ?_, coreSteps_keeps (fun _ _ => coreStep_keeps_legal) hstart ht, hta, htb, hmix⟩
  rw [eq_withTurns hpend]
  exact (reaches_call be hp ha hb s.reads).trans hwait

/-- Settles O60: the transaction of the call leaves `Mix` of the loaded inputs, which the end of the call reads. -/
theorem callReturnsMix : Obligations.CallReturnsMix := by
  intro s a b be hs hp hpend ha hb
  obtain ⟨t, polls, hcall, hlegal, hta, htb, hres⟩ := reaches_call_end hs hp hpend ha hb
  cases hmix : mixFn a b be with
  | some o =>
    rw [hmix] at hres
    obtain ⟨hdone, hlen, hout⟩ := hres
    have hword : BitVec.ofNat 32 o.length = t.lenOut := by rw [← hlen, BitVec.ofNat_toNat, BitVec.setWidth_eq]
    obtain ⟨n, hn⟩ := steps_of_reaches (hcall.trans (reaches_result_done hdone hlegal.lenOut_le _))
    rw [hout, ← hword] at hn
    exact ⟨n, _, polls, hn, rfl, hta, htb, hdone, hlen, hout, rfl⟩
  | none =>
    rw [hmix] at hres
    obtain ⟨hfail, hlen⟩ := hres
    obtain ⟨n, hn⟩ := steps_of_reaches (hcall.trans (reaches_result_fail hfail _))
    exact ⟨n, _, polls, hn, rfl, hta, htb, hfail, hlen, rfl⟩

end Sys2Proof.Machine
end

section
/-! The one exception, InvalidLengthError: a MIX command on a failing length is the entry of R194. -/

namespace Sys2Proof.Machine

open Sys2Proof.Safety

/-- An accepted MIX command on a padded length that is no multiple of 4 is the entry to InvalidLengthError with the
command's own flag, beside the stamp that every accepted command advances (R159, R194; log entry 7). -/
theorem startMix_invalid {s : State} (be : Bool) (h4 : paddedLength s % 4 ≠ 0) :
    startMix be s = raiseInvalidLength be (padLen s) s.bumpStamp := by
  rw [startMix_eq, if_neg (padLen_toNat s ▸ h4)]
  rfl

/-- After the entry to InvalidLengthError no core step is enabled (R194). -/
theorem coreStep_raiseInvalidLength (be : Bool) (l : Len) (s : State) :
    coreStep (raiseInvalidLength be l s) = .next (raiseInvalidLength be l s) := coreStep_rest nofun

/-- Settles O5: the state answered is that of the entry, which writes five registers and no other element. -/
theorem invalidLengthEntry : Obligations.InvalidLengthEntry := by
  intro s be hp h4
  refine ⟨raiseInvalidLength be (padLen s) s.bumpStamp, ?_, rfl, rfl, rfl, padLen_toNat s, rfl, statusByte_eq _,
    rfl, rfl, rfl, rfl, rfl, rfl, rfl, rfl, rfl, coreStep_raiseInvalidLength be _ _⟩
  rw [exec_mix_next be hp, startMix_invalid be h4]

end Sys2Proof.Machine
end

section
/-! Several instances (R206; log entries 19 and 24). -/

namespace Sys2Proof.Machine

/-- A transition of instance `k` replaces its own state by one that a step leads to, and does nothing else. -/
theorem stepInstance_eq_some {k : Nat} {l l' : List State} :
    stepInstance k l = some l' ↔ ∃ s t, l[k]? = some s ∧ step s = .next t ∧ l' = l.set k t := by
  cases hk : l[k]? with
  | none => simp [stepInstance, hk]
  | some s => cases hs : nextTurn s <;> simp [stepInstance, step, hk, hs, eq_comm]

/-- A transition of one instance leaves every other instance as it was (R206). -/
theorem stepInstance_getElem?_ne {i k : Nat} {l l' : List State} (h : stepInstance i l = some l') (hki : k ≠ i) :
    l'[k]? = l[k]? := by
  obtain ⟨s, t, -, -, rfl⟩ := stepInstance_eq_some.mp h
  exact List.getElem?_set_ne hki.symm

/-- Two transitions of different instances may be exchanged: each finds its own state as it was, and they write to
different places. -/
theorem stepInstance_exchange {i k : Nat} {l m n : List State} (hik : i ≠ k) (hi : stepInstance i l = some m)
    (hk : stepInstance k m = some n) : ∃ m', stepInstance k l = some m' ∧ stepInstance i m' = some n := by
  obtain ⟨s, t, hs, hst, rfl⟩ := stepInstance_eq_some.mp hi
  obtain ⟨u, v, hu, huv, rfl⟩ := stepInstance_eq_some.mp hk
  rw [List.getElem?_set_ne hik] at hu
  refine ⟨l.set k v, stepInstance_eq_some.mpr ⟨u, v, hu, huv, rfl⟩, stepInstance_eq_some.mpr ⟨s, t, ?_, hst, ?_⟩⟩
  · rw [List.getElem?_set_ne hik.symm, hs]
  · exact List.set_comm t v hik

/-- The two orders of transitions of different instances give the same result, a stop included (R206). -/
theorem stepInstance_comm {i k : Nat} (l : List State) (hik : i ≠ k) :
    (stepInstance i l).bind (stepInstance k) = (stepInstance k l).bind (stepInstance i) := by
  ext n
  simp only [Option.bind_eq_some_iff]
  constructor
  · rintro ⟨m, hi, hk⟩
    exact stepInstance_exchange hik hi hk
  · rintro ⟨m, hk, hi⟩
    exact stepInstance_exchange hik.symm hk hi

/-- The instances of a platform after reset are tagged by their places (log entry 24). -/
theorem platformReset_freeTags (n : Nat) : (platformReset n).map State.freeTag = List.range n := by
  simp [platformReset, Function.comp_def]

/-- A transition keeps the tag of its own instance, so it keeps the list of tags. -/
theorem stepInstance_freeTags {i : Nat} {l l' : List State} (h : stepInstance i l = some l') :
    l'.map State.freeTag = l.map State.freeTag := by
  obtain ⟨s, t, hs, hst, rfl⟩ := stepInstance_eq_some.mp h
  obtain ⟨hi, rfl⟩ := List.getElem?_eq_some_iff.mp hs
  obtain ⟨-, htag⟩ := stepKeepsCapacity _ _ hst
  rw [List.map_set, htag, ← List.getElem_map State.freeTag (h := by simpa using hi), List.set_getElem_self]

/-- Settles O52: an instance's transition reads and writes its own place in the list alone, and keeps its tag. -/
theorem instancesIndependent : Obligations.InstancesIndependent :=
  ⟨fun _ _ _ _ => stepInstance_getElem?_ne, fun _ _ l => stepInstance_comm l,
    fun n => (platformReset_freeTags n).symm ▸ List.nodup_range, fun _ _ _ => stepInstance_freeTags⟩

end Sys2Proof.Machine
end

section
/-! Hazards and reset (70_reset_and_hazards.md): the command lost while BUSY (R224), the host moves that are refused
(R225, U4 to U7; log entry 12), the table of the moves that are not (R230), and the reset event (R220). -/

namespace Sys2Proof.Machine

open Sys2Proof.Safety

/-! ### A command while BUSY -/

/-- While BUSY a MIX command is ignored (R158 test 1). -/
theorem exec_mix_busy {s : State} (be : Bool) (hp : s.phase = .run) :
    exec (if be then .mixBe else .mixLe) s = .next s := by
  rw [exec_mix, mixCommand_eq, if_pos hp]

/-- Settles O7: the first test of R158 is BUSY, before any field of the word. -/
theorem commandWhileBusyIgnored : Obligations.CommandWhileBusyIgnored := by
  refine fun s hp => ⟨fun v => ?_, exec_mix_busy false hp, exec_mix_busy true hp⟩
  rw [commandWriteFollowsTests, if_pos hp]

/-! ### The moves that are refused -/

/-- While BUSY no length is written (U4). -/
theorem writeLen_busy {s : State} (lane : Lane) (v : Len) (hp : s.phase = .run) :
    writeLen lane v s = .refused .inputFrozen := by
  rw [writeLen, if_pos ((busyFlag_iff s).mpr hp)]

/-- No length above the capacity is written (U5). -/
theorem writeLen_above {s : State} (lane : Lane) {v : Len} (hp : s.phase ≠ .run) (hv : s.maxLen.toNat < v.toNat) :
    writeLen lane v s = .refused .lengthAboveCapacity := by
  rw [writeLen, if_neg (mt (busyFlag_iff s).mp hp), if_pos (BitVec.lt_def.mpr hv)]

/-- While BUSY no byte of an input is written (U4). -/
theorem writeByte_busy {s : State} (lane : Lane) {i : Nat} (v : Byte) (hp : s.phase = .run)
    (h : i < s.maxLen.toNat) : writeByte lane.space i v s = .refused .inputFrozen := by
  have hout : lane.space ≠ .out := by cases lane <;> nofun
  rw [writeByte, if_neg h.not_ge, if_neg hout, if_pos ((busyFlag_iff s).mpr hp)]

/-- No byte beyond the capacity is written (U7). -/
theorem writeByte_absent {s : State} (sp : Space) {i : Nat} (v : Byte) (h : s.maxLen.toNat ≤ i) :
    writeByte sp i v s = .refused .noSuchByte := by
  rw [writeByte, if_pos h]

/-- No byte beyond the capacity is read (U7). -/
theorem hostReadByte_absent {s : State} (sp : Space) {i : Nat} (h : s.maxLen.toNat ≤ i) :
    hostReadByte sp i s = .refused .noSuchByte := by
  rw [hostReadByte, if_pos h]

/-- No register number above 4 is written (U6). -/
theorem writeReg_absent {reg : Nat} (v : BitVec 32) (s : State) (h : 4 < reg) :
    writeReg reg v s = .refused .noSuchRegister := by
  obtain ⟨n, rfl⟩ := Nat.exists_eq_add_of_le' (Nat.succ_le_of_lt h)
  rfl

/-- No register number above 4 is read (U6). -/
theorem hostReadReg_absent {reg : Nat} (s : State) (h : 4 < reg) :
    hostReadReg reg s = .refused .noSuchRegister := by
  obtain ⟨n, rfl⟩ := Nat.exists_eq_add_of_le' (Nat.succ_le_of_lt h)
  rfl

/-- Settles O38: one refusal for each of the moves, those of the two lengths being the same for both lanes. -/
theorem unspecifiedHostMovesRefused : Obligations.UnspecifiedHostMovesRefused :=
  ⟨fun _ v hp => ⟨writeLen_busy .a v hp, writeLen_busy .b v hp⟩,
    fun _ lane _ v hp hi => writeByte_busy lane v hp hi,
    fun _ _ hp hv => ⟨writeLen_above .a hp hv, writeLen_above .b hp hv⟩,
    fun s _ v hreg => ⟨writeReg_absent v s hreg, hostReadReg_absent s hreg⟩,
    fun _ sp _ v hi => ⟨writeByte_absent sp v hi, hostReadByte_absent sp hi⟩⟩

/-! ### The host table -/

/-- A write of a length completes exactly outside RUN and within the capacity. -/
theorem writeLen_completes_iff (lane : Lane) (v : Len) (s : State) :
    (∃ t, writeLen lane v s = .next t) ↔ s.phase ≠ .run ∧ v.toNat ≤ s.maxLen.toNat := by
  by_cases hp : s.phase = .run
  · simp [writeLen_busy lane v hp, hp]
  · by_cases hv : v.toNat ≤ s.maxLen.toNat
    · simp [writeLen_next lane hp hv, hp, hv]
    · simp [writeLen_above lane hp (not_le.mp hv), hv]

/-- The table's row for a write of a length (R230). -/
theorem hostMay_lenRegister_iff (lane : Lane) (v : Len) (s : State) :
    hostMay s (.wrr (lenRegister lane) v) = true ↔ s.phase ≠ .run ∧ v.toNat ≤ s.maxLen.toNat := by
  cases lane <;> simp [hostMay, lenRegister, busyFlag]

/-- `WRR`: a length has its conditions, the other registers of R16 take any write, and there is no further one. -/
theorem hostMay_wrr_iff (s : State) (reg : Nat) (v : BitVec 32) :
    hostMay s (.wrr reg v) = true ↔ ∃ t, hostStep (.wrr reg v) s = .next t := by
  match reg with
  | 0 => exact iff_of_true rfl ⟨_, commandWriteFollowsTests s v⟩
  | 1 => exact iff_of_true rfl ⟨s, rfl⟩
  | 2 => exact (hostMay_lenRegister_iff .a v s).trans (writeLen_completes_iff .a v s).symm
  | 3 => exact (hostMay_lenRegister_iff .b v s).trans (writeLen_completes_iff .b v s).symm
  | 4 => exact iff_of_true rfl ⟨s, rfl⟩
  | n + 5 => simp [hostMay, hostStep, writeReg_absent v s (Nat.le_add_left 5 n)]

/-- `RDR`: the registers of R16 are read in any phase, and there is no further one. -/
theorem hostMay_rdr_iff (s : State) (reg : Nat) :
    hostMay s (.rdr reg) = true ↔ ∃ t, hostStep (.rdr reg) s = .next t := by
  match reg with
  | 0 | 1 | 2 | 3 | 4 => exact iff_of_true rfl ⟨_, rfl⟩
  | n + 5 => simp [hostMay, hostStep, hostReadReg_absent s (Nat.le_add_left 5 n)]

/-- A write of an input byte completes exactly within the capacity and outside RUN. -/
theorem writeByte_completes_iff (lane : Lane) (i : Nat) (v : Byte) (s : State) :
    (∃ t, writeByte lane.space i v s = .next t) ↔ i < s.maxLen.toNat ∧ s.phase ≠ .run := by
  by_cases hi : i < s.maxLen.toNat
  · by_cases hp : s.phase = .run
    · simp [writeByte_busy lane v hp hi, hp]
    · simp [writeByte_input lane v hp hi, hi, hp]
  · simp [writeByte_absent lane.space v (not_lt.mp hi), hi]

/-- The table's row for a write of an input byte (R230). -/
theorem hostMay_laneSpace_iff (lane : Lane) (i : Nat) (v : Byte) (s : State) :
    hostMay s (.wrb lane.space i v) = true ↔ i < s.maxLen.toNat ∧ s.phase ≠ .run := by
  cases lane <;> simp [hostMay, Lane.space, busyFlag]

/-- A write to `OUT` completes, ignored, exactly within the capacity. -/
theorem writeByte_out_completes_iff (i : Nat) (v : Byte) (s : State) :
    (∃ t, writeByte .out i v s = .next t) ↔ i < s.maxLen.toNat := by
  by_cases hi : i < s.maxLen.toNat
  · simp [writeByte_out v hi, hi]
  · simp [writeByte_absent .out v (not_lt.mp hi), hi]

/-- `WRB`: a byte within the capacity, of `OUT` in any phase and of an input outside RUN. -/
theorem hostMay_wrb_iff (s : State) (sp : Space) (i : Nat) (v : Byte) :
    hostMay s (.wrb sp i v) = true ↔ ∃ t, hostStep (.wrb sp i v) s = .next t := by
  cases sp with
  | a => exact (hostMay_laneSpace_iff .a i v s).trans (writeByte_completes_iff .a i v s).symm
  | b => exact (hostMay_laneSpace_iff .b i v s).trans (writeByte_completes_iff .b i v s).symm
  | out => simpa [hostMay, hostStep] using (writeByte_out_completes_iff i v s).symm

/-- `RDB`: a byte within the capacity, in any phase. -/
theorem hostMay_rdb_iff (s : State) (sp : Space) (i : Nat) :
    hostMay s (.rdb sp i) = true ↔ ∃ t, hostStep (.rdb sp i) s = .next t := by
  by_cases hi : i < s.maxLen.toNat
  · simp [hostMay, hostStep, hostReadByte_next sp hi, hi]
  · simp [hostMay, hostStep, hostReadByte_absent sp (not_lt.mp hi), hi]

/-- Settles O39: each of the four accesses has its row, and the step of a pseudo-operation reads at most a register
that there is. -/
theorem hostTableIsExact : Obligations.HostTableIsExact := by
  intro s op
  cases op with
  | wrr reg v => exact hostMay_wrr_iff s reg v
  | rdr reg => exact hostMay_rdr_iff s reg
  | wrb sp i v => exact hostMay_wrb_iff s sp i v
  | rdb sp i => exact hostMay_rdb_iff s sp i
  | lda | ldb | wait | rdo | result | call => exact iff_of_true rfl ⟨_, rfl⟩

/-! ### The reset event -/

/-- Settles O42: the turn's state is that of the event, whose phase is IDLE, in which the core rests. -/
theorem resetEventResult : Obligations.ResetEventResult := fun s rest hpend =>
  ⟨resetEvent (s.setPending rest), step_cons hpend, rfl, rfl, rfl, rfl, rfl, rfl, rfl, statusByte_eq _, rfl, rfl, rfl,
    rfl, coreStep_rest nofun⟩

end Sys2Proof.Machine
end
